-- ==== Sys2Proof/Word.lean ====
section
/-! DEFINITION. The engine's data types: bytes, the 32-bit words of a frame, byte strings of a fixed length
(spec 00_scope.md R6, 20_memory.md R51, R52). -/

namespace Sys2Proof

/-- A byte: 8 bits, bit 0 the least significant (R6). -/
abbrev Byte := BitVec 8

/-- The only multi-byte integer the engine handles: a header or status word (R52). -/
abbrev Word32 := BitVec 32

/-- A frame or a payload as the port delivers it: a byte string of any length, first byte first (R6, R80). -/
abbrev Frame := List Byte

/-- A byte string `B[0] .. B[n-1]` of length exactly `n` (R6). It is a list with its length, not a `Vector`,
because the kernel evaluates list functions on numerals. -/
structure Bytes (n : Nat) where
  /-- The bytes, index 0 first. -/
  list : List Byte
  /-- There are `n` of them. -/
  len : list.length = n
deriving DecidableEq, Repr

/-- The wide block: 32 bytes (R51). -/
abbrev Block := Bytes 32

/-- A half-block of the accelerated datapath: 16 bytes (42_permute_accelerated.md R170). -/
abbrev Lane := Bytes 16

end Sys2Proof
end

