-- ==== Sys2Proof/Config.lean ====
section
/-! DEFINITION. What an instance of the engine fixes and the spec leaves open (00_scope.md R5,
93_implementation_defined.md section 2), and the type of the record of constants (41_permute_portable.md R146).
The record's values stand in Machine/Tables.lean. -/

namespace Sys2Proof

/-- `ACCEL_PRESENT`: whether this instance has the accelerated datapath (R5, R33). OPEN in the spec: a free value,
no body. State.reset starts from it. Log entry 1. -/
opaque Config.accelPresent : Bool

/-- `RK_RESET`: byte `addr` of the round-key store where nothing was stored since the last reset (R5, R37, R270,
R276). OPEN in the spec, any 992 bytes: a free value, no body. It may depend on what the store held at each
earlier reset, because a reset need not erase (R276). Log entry 2. -/
opaque Config.rkReset (history : List (List Host.Cell)) (addr : Nat) : Byte

/-- The constants of the permutation as one record, so that they can be replaced without touching the machine
(R146; 93_implementation_defined.md section 2). -/
structure Constants where
  /-- `SBOX`, one list of 16 bytes per row, row = high nibble of the index (R134). -/
  sbox : List (List Byte)
  /-- `INV_SBOX`, laid out the same way (R135). -/
  invSbox : List (List Byte)
  /-- `SHIFT[0..3]` (R137). -/
  shift : List Nat
  /-- The first row of the circulant `MIX` (R138). -/
  mix : List Byte
  /-- `POLY`, bit i the coefficient of x^i (R133). -/
  poly : BitVec 9
  /-- `BLEND_MASK[0..15]`, true where it is 1 (42_permute_accelerated.md R173). -/
  blendMask : List Bool
  /-- `SHUF_IDX[0..15]` (R174). -/
  shufIdx : List Nat
deriving DecidableEq, Repr

end Sys2Proof
end

