-- ==== Sys2Proof/Machine/Bytes.lean ====
section
/-! DEFINITION. Byte strings: indexing, pointwise building, xor, and the little-endian words of the port
(00_scope.md R6, 20_memory.md R52). -/

namespace Sys2Proof

/-- `B[i]`; the index is below the length wherever the machine reads. -/
def Bytes.get {n : Nat} (B : Bytes n) (i : Nat) : Byte := B.list.getD i 0

/-- The byte string of length `n` whose byte `i` is `f i`. -/
def Bytes.build (n : Nat) (f : Nat → Byte) : Bytes n := ⟨(List.range n).map f, by simp⟩

/-- `zeros(n)` as a byte string of any length. -/
def zeros (n : Nat) : Frame := List.replicate n 0

/-- `zeros(n)` as a byte string of length `n`. -/
def Bytes.zeros (n : Nat) : Bytes n := ⟨Sys2Proof.zeros n, by simp [Sys2Proof.zeros]⟩

/-- Byte-wise exclusive-or (R6). -/
def Bytes.xor {n : Nat} (A B : Bytes n) : Bytes n :=
  ⟨List.zipWith (· ^^^ ·) A.list B.list, by simp [A.len, B.len]⟩

/-- `LE32(b0 b1 b2 b3)`: the first byte is bits 7:0 (R6). -/
def ofLE32 (b0 b1 b2 b3 : Byte) : Word32 := b3 ++ b2 ++ b1 ++ b0

/-- `le32(v)`: the four bytes, least significant first (R6). -/
def le32 (v : Word32) : Frame :=
  [v.extractLsb' 0 8, v.extractLsb' 8 8, v.extractLsb' 16 8, v.extractLsb' 24 8]

end Sys2Proof
end

