-- ==== Sys2Proof/Syntax.lean ====
section
/-! DEFINITION. The commands: one constructor per row of spec/opcode_table.json (30_encoding.md R82, R90). The
row's VSEL field is the constructor; STRENGTH and the payload are its operands (R83). -/

namespace Sys2Proof

/-- The strength selector `STRENGTH` (10_state.md R22): 0 Strength256, 1 Strength512. -/
inductive Strength where
  /-- Encoding 0: 22 rounds. -/
  | strength256
  /-- Encoding 1: 30 rounds. -/
  | strength512
deriving DecidableEq, Repr

/-- The legal values of the header field `VSEL` (30_encoding.md R81): 0, 1, 2. Value 3 is reserved. -/
inductive VSel where
  | auto
  | portable
  | accelerated
deriving DecidableEq, Repr

/-- A command, with its payload as received, of whatever length (R86). -/
inductive Instr where
  /-- `INIT` with VSEL = 0 (40_init_keyload.md R110). -/
  | initAuto (strength : Strength) (payload : Frame)
  /-- `INIT` with VSEL = 1. -/
  | initPortable (strength : Strength) (payload : Frame)
  /-- `INIT` with VSEL = 2. -/
  | initAccel (strength : Strength) (payload : Frame)
  /-- `PERMUTE` (41_permute_portable.md R130). -/
  | permute (payload : Frame)
  /-- `DISPOSE` (43_dispose_probe.md R190). -/
  | dispose (payload : Frame)
  /-- `PROBE` (43_dispose_probe.md R191). -/
  | probe (payload : Frame)
deriving DecidableEq, Repr

end Sys2Proof
end

