-- ==== Sys2Proof/Machine/State.lean ====
section
/-! DEFINITION. The engine's state (10_state.md R20), the host's port (30_encoding.md R80, 70_reset_and_hazards.md
R278) and the state after reset (R37, R270), all plain data. -/

namespace Sys2Proof.Machine

/-- Why the machine would stop with a fault. NONE: this type has no constructor, because the spec gives every frame
in every state an answer (60_exceptions.md R242, R243, R246) and the engine goes on taking frames. A
ContractViolation is a next state here, never this. Nothing raises it; safe. Log entry 13. -/
inductive Fault where
deriving DecidableEq, Repr

/-- Why the model would give an instruction no meaning. -/
inductive Refusal where
  /-- Raised only by an arm of `exec` whose instruction is not modelled yet. No arm raises it in this model; safe. -/
  | notModelled (mnemonic : String)
deriving DecidableEq, Repr

/-- `LIFECYCLE` (R21): encodings 0 Created, 1 Keyed, 2 Disposed. Encoding 3 is never written and has no
constructor. Log entry 12. -/
inductive Lifecycle where
  /-- After reset: no key was ever loaded. -/
  | created
  /-- The round-key store holds a full round-key array; PERMUTE is legal. -/
  | keyed
  /-- After DISPOSE: the store was wiped. -/
  | disposed
deriving DecidableEq, Repr

/-- `VARIANT` (R23): encodings 0 Portable, 1 Accelerated. -/
inductive Variant where
  | portable
  | accelerated
deriving DecidableEq, Repr

/-- What the host can do to the engine between two commands (30_encoding.md R80, 70_reset_and_hazards.md R270).
Log entries 3 and 5. -/
inductive PortEvent where
  /-- A command frame, delivered whole. -/
  | frame (bytes : Frame)
  /-- The reset input is applied. -/
  | reset
deriving DecidableEq, Repr

/-- The round-key store as memory: (address, byte) pairs, addresses strictly rising and below 992 (20_memory.md R50).
An address not listed has had nothing stored to it since the last reset. -/
abbrev Memory := List Host.Cell

/-- The state of one engine (R20), and of its port. -/
structure State where
  /-- `LIFECYCLE` (R21). -/
  lifecycle : Lifecycle
  /-- `STRENGTH` (R22). -/
  strength : Strength
  /-- `VARIANT` (R23). -/
  variant : Variant
  /-- `FAULT` (R24), sticky. -/
  fault : Bool
  /-- `CAUSE` (R25). -/
  cause : Byte
  /-- `RK`, the round-key store (R26). -/
  rk : Memory
  /-- `W`, the working block (R27). -/
  w : Block
  /-- `RND`, the round counter (R28). -/
  rnd : BitVec 5
  /-- `ACCEL_PRESENT` of this instance (00_scope.md R5): configuration, written by no step. Log entry 1. -/
  accelPresent : Bool
  /-- The model's own: what `rk` listed at each earlier reset, newest first. It only indexes the free value
  `Config.rkReset`. Log entry 2. -/
  resetHistory : List Memory
  /-- What the host has sent and the engine has not yet taken, in order (R80, R278). Log entry 3. -/
  inbox : List PortEvent
  /-- The response frames emitted so far, oldest first (R84, R278). Log entry 3. -/
  outbox : List Frame
deriving DecidableEq, Repr

/-- The state after reset (R37, R270), nothing sent and nothing answered yet. `RK` is `RK_RESET`: nothing listed, so
every byte of it is a free value (log entry 2). -/
def State.reset : State where
  lifecycle := .created
  strength := .strength256
  variant := .portable
  fault := false
  cause := 0
  rk := []
  w := Bytes.zeros 32
  rnd := 0
  accelPresent := Config.accelPresent
  resetHistory := []
  inbox := []
  outbox := []

end Sys2Proof.Machine
end

