-- ==== Sys2Proof/Machine/Operands.lean ====
section
/-! DEFINITION. The operand forms (30_encoding.md R83): the block of PERMUTE, the key material and the variant
selector of INIT. -/

namespace Sys2Proof.Machine

/-- The input block `X` of a PERMUTE payload, when it is exactly 32 bytes (41_permute_portable.md R130): block byte
`i` is payload byte `i` (R83). -/
def blockOperand (p : Frame) : Option Block :=
  if h : p.length = 32 then some ⟨p, h⟩ else none

/-- Whether a payload is round-key material of strength `s`: exactly `RK_BYTES(s)` bytes (40_init_keyload.md R110). -/
def isKeyMaterial (s : Strength) (p : Frame) : Bool := p.length == rkBytes s

/-- `ResolveVariant(v)` (R111), `accel` being ACCEL_PRESENT. -/
def resolveVariant (accel : Bool) : VSel → Variant
  | .auto => if accel then .accelerated else .portable
  | .portable => .portable
  | .accelerated => .accelerated

end Sys2Proof.Machine
end

