-- ==== Sys2Proof/Machine/Flags.lean ====
section
/-! DEFINITION. The engine's one flag FAULT with its CAUSE codes (10_state.md R24, R25; 60_exceptions.md R241), the
response codes (30_encoding.md R84) and the PROBE status word (R91). The engine computes no other flag (R24). -/

namespace Sys2Proof.Machine

/-- The causes of a ContractViolation (R241). -/
inductive Cause where
  /-- 1: the frame does not decode. -/
  | illegalCommand
  /-- 2: PERMUTE outside Keyed, DISPOSE in Disposed. -/
  | badLifecycle
  /-- 3: the payload has not the required length. -/
  | badLength
  /-- 4: the accelerated variant is forced on an instance without it. -/
  | variantUnavailable
deriving DecidableEq, Repr

/-- The code stored in `CAUSE` and returned in the response (R241). -/
def Cause.code : Cause → Byte
  | .illegalCommand => 1
  | .badLifecycle => 2
  | .badLength => 3
  | .variantUnavailable => 4

/-- Response code 0 (R84). -/
def okCode : Byte := 0

/-- Response code 5, never stored in `CAUSE` (R84, R25). -/
def engineFaultedCode : Byte := 5

/-- The response frame: the code in bits 7:0 of a little-endian status word, then the payload (R84). -/
def responseFrame (code : Byte) (payload : Frame) : Frame := le32 (code.setWidth 32) ++ payload

/-- The encoding of `LIFECYCLE` (R21). -/
def lifecycleBits : Lifecycle → BitVec 2
  | .created => 0
  | .keyed => 1
  | .disposed => 2

/-- The encoding of `STRENGTH` (R22). -/
def strengthStateBit : Strength → BitVec 1
  | .strength256 => 0
  | .strength512 => 1

/-- The encoding of `VARIANT` (R23). -/
def variantBit : Variant → BitVec 1
  | .portable => 0
  | .accelerated => 1

/-- The PROBE status word, field by field from bit 31 down (R91). -/
def State.statusWord (s : State) : Word32 :=
  (0 : BitVec 16) ++ s.cause ++ (0 : BitVec 2) ++ BitVec.ofBool s.fault ++ BitVec.ofBool s.accelPresent ++
    variantBit s.variant ++ strengthStateBit s.strength ++ lifecycleBits s.lifecycle

end Sys2Proof.Machine
end

