-- ==== Sys2Proof/Machine/Memory.lean ====
section
/-! DEFINITION. The operations over the round-key store, the engine's only memory (00_scope.md R7, 20_memory.md R50,
R53). -/

namespace Sys2Proof.Machine

/-- Whether the addresses rise strictly from `lo` and stay below 992. -/
def Memory.wfFrom (lo : Nat) : Memory → Bool
  | [] => true
  | (a, _) :: m => decide (lo ≤ a) && decide (a < rkCapacity) && Memory.wfFrom (a + 1) m

/-- The canonical form: addresses strictly rising, each one of the store's. An address not listed has no value in
the list, so no entry can equal what an unlisted address lists. Log entry 2. -/
def Memory.wf (m : Memory) : Bool := Memory.wfFrom 0 m

/-- The cells from address `a` on. -/
def Memory.skipTo : Memory → Nat → Memory
  | [], _ => []
  | (k, v) :: m, a => if k < a then Memory.skipTo m a else (k, v) :: m

/-- The byte of the first cell, if that cell is address `a`. -/
def Memory.headAt : Memory → Nat → Option Byte
  | [], _ => none
  | (k, v) :: _, a => if k = a then some v else none

/-- The byte listed at address `a`, if any. -/
def Memory.read (m : Memory) (a : Nat) : Option Byte := Memory.headAt (Memory.skipTo m a) a

/-- The bytes listed at `count` consecutive addresses from `a`, in one pass over the list. -/
def Memory.readBytes (m : Memory) (a : Nat) : (count : Nat) → List (Option Byte)
  | 0 => []
  | count + 1 =>
    Memory.headAt (Memory.skipTo m a) a :: Memory.readBytes (Memory.skipTo m a) (a + 1) count

theorem Memory.readBytes_length (m : Memory) (a count : Nat) : (Memory.readBytes m a count).length = count := by
  induction count generalizing m a with
  | zero => rfl
  | succ count ih => simp [Memory.readBytes, ih]

/-- The cells of consecutive bytes from address `a`. -/
def Memory.cellsFrom (a : Nat) : Frame → Memory
  | [] => []
  | v :: B => (a, v) :: Memory.cellsFrom (a + 1) B

/-- `RK[a .. a+len(B)-1] <- B` (R7): the cells below the range, the new ones, the cells above. -/
def Memory.writeBytes (m : Memory) (a : Nat) (B : Frame) : Memory :=
  m.filter (fun c => decide (c.1 < a)) ++ Memory.cellsFrom a B ++
    m.filter (fun c => decide (a + B.length ≤ c.1))

/-- `RK[a] <- v` (R7). -/
def Memory.write (m : Memory) (a : Nat) (v : Byte) : Memory := Memory.writeBytes m a [v]

/-- What address `a` holds, given what is listed there: where nothing was stored since the last reset, the free value
`RK_RESET` (10_state.md R37, 70_reset_and_hazards.md R276). Log entry 2. -/
def State.orReset (s : State) (a : Nat) (listed : Option Byte) : Byte :=
  listed.getD (Config.rkReset s.resetHistory a)

/-- `RK[a]` (R7). -/
def State.rkByte (s : State) (a : Nat) : Byte := s.orReset a (Memory.read s.rk a)

/-- What consecutive addresses from `a` hold, given what is listed there. -/
def State.orResetFrom (s : State) : Nat → List (Option Byte) → Frame
  | _, [] => []
  | a, o :: os => s.orReset a o :: s.orResetFrom (a + 1) os

theorem State.orResetFrom_length (s : State) (a : Nat) (os : List (Option Byte)) :
    (s.orResetFrom a os).length = os.length := by
  induction os generalizing a with
  | nil => rfl
  | cons o os ih => simp [State.orResetFrom, ih]

/-- Round key `r`: the 32-byte string `RK[32r .. 32r+31]` (20_memory.md R53). Every round of the engine reads below
address 992 (log entry 16). -/
def State.roundKey (s : State) (r : Nat) : Block :=
  ⟨s.orResetFrom (32 * r) (Memory.readBytes s.rk (32 * r) 32), by
    rw [State.orResetFrom_length, Memory.readBytes_length]⟩

end Sys2Proof.Machine
end

