-- ==== Sys2Proof/Machine/Ops.lean ====
section
/-! DEFINITION. The named operations over State that the meanings share: responding, the fault entry and its only
exit, the dispatch guard, the key store's whole-store writes, the working registers. -/

namespace Sys2Proof.Machine

/-- `respond(code, payload)` (00_scope.md R7, 30_encoding.md R84): emit the command's response frame. -/
def State.respond (s : State) (code : Byte) (payload : Frame) : State :=
  { s with outbox := s.outbox ++ [responseFrame code payload] }

/-- The fault entry `raise ContractViolation(c)` (60_exceptions.md R242): FAULT and CAUSE, the response, nothing
else. -/
def State.raise (s : State) (c : Cause) : State :=
  { s with fault := true, cause := c.code }.respond c.code []

/-- The only exit from a fault is reset (R243; 70_reset_and_hazards.md R270): the state of 10_state.md R37. `RK`
becomes unspecified: nothing is listed, and what the store held goes into the history the free value may depend on
(R276; log entry 2). The port is the host's and stays (log entry 6). -/
def State.applyReset (s : State) : State :=
  { s with
    lifecycle := .created, strength := .strength256, variant := .portable, fault := false, cause := 0,
    rk := [], w := Bytes.zeros 32, rnd := 0, resetHistory := s.rk :: s.resetHistory }

/-- Step 2 of the dispatch (R244): a faulted engine answers EngineFaulted and changes nothing (R243); otherwise the
command's own checks and effect follow. -/
def State.serve (s : State) (body : State → State) : State :=
  if s.fault then s.respond engineFaultedCode [] else body s

/-- `RK[0..991] <- zeros(992)` (R110, R190). -/
def State.wipeKey (s : State) : State :=
  { s with rk := Memory.writeBytes s.rk 0 (zeros rkCapacity) }

/-- `RK[0..991] <- zeros(992)`, then `RK[0..len(p)-1] <- p` (40_init_keyload.md R110, R112). -/
def State.loadKey (s : State) (p : Frame) : State :=
  { s.wipeKey with rk := Memory.writeBytes s.wipeKey.rk 0 p }

/-- `STRENGTH`, `VARIANT` and `LIFECYCLE` as INIT or DISPOSE sets them (R110, R190). -/
def State.setMode (s : State) (l : Lifecycle) (st : Strength) (v : Variant) : State :=
  { s with lifecycle := l, strength := st, variant := v }

/-- `W` and `RND` as the datapath leaves them (10_state.md R27, R28). -/
def State.setWorking (s : State) (w : Block) (rnd : Nat) : State := { s with w := w, rnd := BitVec.ofNat 5 rnd }

/-- `W <- zeros(32); RND <- 0` (R130, R190). -/
def State.clearWorking (s : State) : State := s.setWorking (Bytes.zeros 32) 0

/-- The state after the engine has taken the first input; `rest` is still waiting. -/
def State.setInbox (s : State) (rest : List PortEvent) : State := { s with inbox := rest }

end Sys2Proof.Machine
end

