-- ==== Sys2Proof/Machine/KeyLoad.lean ====
section
/-! DEFINITION. INIT (40_init_keyload.md R110 to R113): one meaning per row of the opcode table over one shared
command. -/

namespace Sys2Proof.Machine

/-- The effect of an INIT that passed every check (R110): legal in every lifecycle state, Keyed too (R113; log
entry 11). -/
def State.keyLoaded (s : State) (st : Strength) (v : VSel) (p : Frame) : State :=
  ((s.loadKey p).setMode .keyed st (resolveVariant s.accelPresent v)).respond okCode []

/-- `INIT(s, v, P)` behind the dispatch (R110; 60_exceptions.md R244 steps 2, 5, 6, 7). -/
def initCommand (st : Strength) (v : VSel) (p : Frame) (s : State) : State :=
  s.serve fun s =>
    if isKeyMaterial st p = false then s.raise .badLength
    else if v = .accelerated ∧ s.accelPresent = false then s.raise .variantUnavailable
    else s.keyLoaded st v p

/-- INIT with VSEL = AUTO. -/
def execInitAuto (st : Strength) (p : Frame) (s : State) : Host.Outcome State Fault Refusal :=
  .next (initCommand st .auto p s)

/-- INIT with VSEL = PORTABLE. -/
def execInitPortable (st : Strength) (p : Frame) (s : State) : Host.Outcome State Fault Refusal :=
  .next (initCommand st .portable p s)

/-- INIT with VSEL = ACCELERATED. -/
def execInitAccel (st : Strength) (p : Frame) (s : State) : Host.Outcome State Fault Refusal :=
  .next (initCommand st .accelerated p s)

end Sys2Proof.Machine
end

