-- ==== Sys2Proof/Machine/Field.lean ====
section
/-! DEFINITION. Arithmetic in GF(2^8) (41_permute_portable.md R133). Addition is the exclusive-or of bytes. -/

namespace Sys2Proof.Machine

/-- `xtime(a)`: multiplication by x modulo POLY (R133). -/
def xtime (a : Byte) : Byte :=
  if a.toNat < 128 then a <<< 1 else (a <<< 1) ^^^ constants.poly.setWidth 8

/-- The sum for `gmul` over the remaining bits of `b`, of which at most `bits` are left, `a` being the operand after
as many `xtime` as bits were passed; bits above the highest one set add nothing. -/
def gmulBits : (bits : Nat) → (a : Byte) → (b : Nat) → Byte
  | 0, _, _ => 0
  | bits + 1, a, b =>
    if b = 0 then 0 else (if b % 2 = 1 then a else 0) ^^^ gmulBits bits (xtime a) (b / 2)

/-- `gmul(a, b)`: the exclusive-or, over the bits `i` in 0..7 of `b` that are set, of `xtime` applied `i` times to
`a` (R133). -/
def gmul (a b : Byte) : Byte := gmulBits 8 a b.toNat

end Sys2Proof.Machine
end

