-- ==== Sys2Proof/Machine/Rounds.lean ====
section
/-! DEFINITION. The steps of a round (41_permute_portable.md R136 to R139) on byte strings, and the permutation's
shape (R131). `k r` is round key `r`, 32 bytes (20_memory.md
R53). -/

namespace Sys2Proof.Machine

/-- `SubBytes(A)[i] = SBOX[A[i]]` (R136). -/
def subBytes {n : Nat} (A : Bytes n) : Bytes n := ⟨A.list.map sbox, by simp [A.len]⟩

/-- Row `r` rotated left by `off r` columns in a matrix of 4 rows and `cols` columns, byte `i` at row `i mod 4`,
column `i div 4` (20_memory.md R51): `ShiftRows` with 8 columns (R137), `ShiftRows4` with 4
(42_permute_accelerated.md R171). -/
def rotateRows (cols : Nat) (off : Nat → Nat) {n : Nat} (A : Bytes n) : Bytes n :=
  Bytes.build n fun i => A.get (4 * ((i / 4 + off (i % 4)) % cols) + i % 4)

/-- `ShiftRows(A)` (R137). -/
def shiftRows (A : Block) : Block := rotateRows 8 shift A

/-- Byte `r` of the column that replaces `(a0, a1, a2, a3)` (R138). -/
def mixByte (a0 a1 a2 a3 : Byte) (r : Nat) : Byte :=
  gmul a0 (mixEntry r 0) ^^^ gmul a1 (mixEntry r 1) ^^^ gmul a2 (mixEntry r 2) ^^^ gmul a3 (mixEntry r 3)

/-- Every column of four consecutive bytes replaced, by itself (R138). -/
def mixList : Frame → Frame
  | a0 :: a1 :: a2 :: a3 :: A =>
    mixByte a0 a1 a2 a3 0 :: mixByte a0 a1 a2 a3 1 :: mixByte a0 a1 a2 a3 2 :: mixByte a0 a1 a2 a3 3 :: mixList A
  | A => A

theorem mixList_length : ∀ A : Frame, (mixList A).length = A.length
  | _ :: _ :: _ :: _ :: A => by simp [mixList, mixList_length A]
  | [] => rfl
  | [_] => rfl
  | [_, _] => rfl
  | [_, _, _] => rfl

/-- `MixColumns(A)`, for a length that is a multiple of 4 (R138). -/
def mixColumns {n : Nat} (A : Bytes n) : Bytes n := ⟨mixList A.list, by simp [mixList_length, A.len]⟩

/-- `AddRoundKey(A, r)[i] = A[i] ^ RK[32r + i]` (R139): the exclusive-or with round key `r`. -/
def addRoundKey (k : Nat → Block) (A : Block) (r : Nat) : Block := A.xor (k r)

/-- `count` full rounds, the first with round key `r` (R131). -/
def permRounds (k : Nat → Block) : (count r : Nat) → Block → Block
  | 0, _, A => A
  | count + 1, r, A =>
    permRounds k count (r + 1) (addRoundKey k (mixColumns (shiftRows (subBytes A))) r)

/-- `Perm(RK, n, X)` (R131): the key addition before the first round, `n - 1` full rounds, the last round without
the diffusion step. -/
def perm (k : Nat → Block) (n : Nat) (X : Block) : Block :=
  addRoundKey k (shiftRows (subBytes (permRounds k (n - 1) 1 (addRoundKey k X 0)))) n

end Sys2Proof.Machine
end

