-- ==== Sys2Proof/Machine/Portable.lean ====
section
/-! DEFINITION. The portable (constant-time) datapath over the working registers (41_permute_portable.md R142,
R143). -/

namespace Sys2Proof.Machine

/-- The working registers `W` and `RND` (10_state.md R27, R28) while a PERMUTE runs. `RND` is a count here: it goes
from 0 to 22 or 30 and never wraps (R28), so its 5 bits in State hold it. Log entry 7. -/
structure Datapath where
  w : Block
  rnd : Nat
deriving DecidableEq, Repr

/-- A round applied `count` times. -/
def repeatRound (round : Datapath → Datapath) : Nat → Datapath → Datapath
  | 0, d => d
  | count + 1, d => repeatRound round count (round d)

/-- The 512 table bytes the prefetch pass reads (R143). -/
def prefetchReads : Frame :=
  (List.range 256).map (fun a => sbox (BitVec.ofNat 8 a)) ++
    (List.range 256).map (fun a => invSbox (BitVec.ofNat 8 a))

/-- The values read are discarded (R143). -/
def discard (_reads : Frame) (d : Datapath) : Datapath := d

/-- `Prefetch()` (R143): reads every entry of SBOX and INV_SBOX, writes no state. Log entry 20. -/
def prefetch (d : Datapath) : Datapath := discard prefetchReads d

/-- The working registers between commands: clean (10_state.md R36 (f)). -/
def cleanDatapath : Datapath := { w := Bytes.zeros 32, rnd := 0 }

/-- `W <- X; RND <- 0` (R142), whatever the registers held. -/
def loadBlock (X : Block) (_d : Datapath) : Datapath := { w := X, rnd := 0 }

/-- `W <- AddRoundKey(W, 0)`: the key addition before the first round (R142). -/
def firstKeyAddition (k : Nat → Block) (d : Datapath) : Datapath := { d with w := addRoundKey k d.w 0 }

/-- One full round: RND advances, then substitution, row shift, diffusion and the key addition of round RND
(R142). -/
def portableRound (k : Nat → Block) (d : Datapath) : Datapath :=
  { w := addRoundKey k (mixColumns (shiftRows (subBytes d.w))) (d.rnd + 1), rnd := d.rnd + 1 }

/-- The last round: no diffusion (R142). -/
def portableLastRound (k : Nat → Block) (d : Datapath) : Datapath :=
  { w := addRoundKey k (shiftRows (subBytes d.w)) (d.rnd + 1), rnd := d.rnd + 1 }

/-- `PermPortable(n, X)` (R142), in the order of its pseudocode: the prefetch pass, before the block is loaded and
before the first key addition (R143), then the rounds. The output block is the final `W`. -/
def permPortable (k : Nat → Block) (n : Nat) (X : Block) : Datapath :=
  let fetched := prefetch cleanDatapath
  let loaded := loadBlock X fetched
  let keyed := firstKeyAddition k loaded
  portableLastRound k (repeatRound (portableRound k) (n - 1) keyed)

end Sys2Proof.Machine
end

