-- ==== Sys2Proof/Machine/Accelerated.lean ====
section
/-! DEFINITION. The accelerated datapath (42_permute_accelerated.md R170 to R175): two lanes of 16 bytes, a blend
between them, a shuffle in each, a half-round unit per lane. -/

namespace Sys2Proof.Machine

/-- Lane 0: `W[0..15]` (R170). -/
def lane0 (W : Block) : Lane := ⟨W.list.take 16, by simp [W.len]⟩

/-- Lane 1: `W[16..31]` (R170). -/
def lane1 (W : Block) : Lane := ⟨W.list.drop 16, by simp [W.len]⟩

/-- `L0 ‖ L1` (R175). -/
def joinLanes (L0 L1 : Lane) : Block := ⟨L0.list ++ L1.list, by simp [L0.len, L1.len]⟩

/-- The lane key `K[2r] = RK[32r .. 32r+15]`: the low half of round key `r` (R170, 20_memory.md R53). -/
def laneKey0 (k : Nat → Block) (r : Nat) : Lane := lane0 (k r)

/-- The lane key `K[2r+1] = RK[32r+16 .. 32r+31]`: the high half of round key `r` (R170, 20_memory.md R53). -/
def laneKey1 (k : Nat → Block) (r : Nat) : Lane := lane1 (k r)

/-- `ShiftRows4(A)`: row `r` rotated left by `r` columns of four (R171). -/
def shiftRows4 (A : Lane) : Lane := rotateRows 4 (fun r => r) A

/-- `HalfRound(A, K)` (R171). -/
def halfRound (A K : Lane) : Lane := (mixColumns (subBytes (shiftRows4 A))).xor K

/-- `HalfRoundLast(A, K)` (R172): without `MixColumns`. -/
def halfRoundLast (A K : Lane) : Lane := (subBytes (shiftRows4 A)).xor K

/-- `Blend(A, B)` (R173): the byte of `B` where BLEND_MASK is 1, else the byte of `A`. -/
def blend (A B : Lane) : Lane :=
  Bytes.build 16 fun j => if constants.blendMask.getD j false then B.get j else A.get j

/-- `Shuffle(A)[j] = A[SHUF_IDX[j]]` (R174). -/
def shuffle (A : Lane) : Lane := Bytes.build 16 fun j => A.get (constants.shufIdx.getD j 0)

/-- One application of the half-round units: the cross-mix and the shuffle, both from the old lanes, then `unit` on
each lane with the lane keys of round RND (R175). -/
def laneRound (unit : Lane → Lane → Lane) (k : Nat → Block) (d : Datapath) : Datapath :=
  let r := d.rnd + 1
  let T0 := shuffle (blend (lane0 d.w) (lane1 d.w))
  let T1 := shuffle (blend (lane1 d.w) (lane0 d.w))
  { w := joinLanes (unit T0 (laneKey0 k r)) (unit T1 (laneKey1 k r)), rnd := r }

/-- `PermAccel(n, X)` (R175); the output block is the final `W`, `L0 ‖ L1`. -/
def permAccel (k : Nat → Block) (n : Nat) (X : Block) : Datapath :=
  laneRound halfRoundLast k
    (repeatRound (laneRound halfRound k) (n - 1)
      { w := joinLanes ((lane0 X).xor (laneKey0 k 0)) ((lane1 X).xor (laneKey1 k 0)), rnd := 0 })

end Sys2Proof.Machine
end

