-- ==== Sys2Proof/Machine/Permute.lean ====
section
/-! DEFINITION. PERMUTE (41_permute_portable.md R130). -/

namespace Sys2Proof.Machine

/-- The datapath `VARIANT` selects, run on the block `X` with `ROUNDS(STRENGTH)` rounds (R130). -/
def State.datapath (s : State) (X : Block) : Datapath :=
  match s.variant with
  | .portable => permPortable s.roundKey (rounds s.strength) X
  | .accelerated => permAccel s.roundKey (rounds s.strength) X

/-- The datapath fills the working registers, `W` is answered, the registers are left clean (R130, R27, R28). -/
def State.permuted (s : State) (X : Block) : State :=
  let d := s.datapath X
  let run := s.setWorking d.w d.rnd
  run.clearWorking.respond okCode run.w.list

/-- `PERMUTE(P)` behind the dispatch (R130; 60_exceptions.md R244 steps 2, 4, 5, 7). -/
def permuteCommand (p : Frame) (s : State) : State :=
  s.serve fun s =>
    if s.lifecycle ≠ .keyed then s.raise .badLifecycle
    else match blockOperand p with
      | none => s.raise .badLength
      | some X => s.permuted X

/-- PERMUTE. -/
def execPermute (p : Frame) (s : State) : Host.Outcome State Fault Refusal :=
  .next (permuteCommand p s)

end Sys2Proof.Machine
end

