-- ==== Sys2Proof/WellFormed.lean ====
section
/-! DEFINITION. When a command is well-formed: its payload has exactly the length its opcode and STRENGTH require
(30_encoding.md R82, R90). Decoding does not ask for it (R86); the engine checks it when the command executes
(60_exceptions.md R244), and calls a PROBE that passes it well-formed (R241). Log entry 14. -/

namespace Sys2Proof

/-- The payload of a command, as received (R83). -/
def Instr.payload : Instr → Frame
  | .initAuto _ p => p
  | .initPortable _ p => p
  | .initAccel _ p => p
  | .permute p => p
  | .dispose p => p
  | .probe p => p

/-- The payload length the row requires (R82, R90): 736 or 992 by STRENGTH, 32, 0, 0. -/
def Instr.requiredLength : Instr → Nat
  | .initAuto s _ => Machine.rkBytes s
  | .initPortable s _ => Machine.rkBytes s
  | .initAccel s _ => Machine.rkBytes s
  | .permute _ => Machine.blockBytes
  | .dispose _ => 0
  | .probe _ => 0

/-- The payload has exactly the required length. -/
def Instr.wf (i : Instr) : Bool := i.payload.length == i.requiredLength

end Sys2Proof
end

