-- ==== Sys2Proof/Decode.lean ====
section
/-! DEFINITION. Decoding of command frames, total on any byte string and rejecting by name (30_encoding.md R81, R86,
R87), the encoder written from the same field table, and the opcode table as match and mask rows (R90). -/

namespace Sys2Proof

/-- Why a frame is Illegal (R87). The engine reports one cause for all of them (60_exceptions.md R241): the name is
the model's own and no state keeps it. Log entry 18. -/
inductive IllegalReason where
  /-- Fewer than 4 bytes. -/
  | shortFrame
  /-- OPC is 0x00 or 0x05 to 0xFF. -/
  | unknownOpcode
  /-- A nonzero bit in H[31:11]. -/
  | reservedBits
  /-- VSEL = 3 in INIT. -/
  | reservedVsel
  /-- A nonzero STRENGTH or VSEL bit in PERMUTE, DISPOSE or PROBE. -/
  | initFieldOutsideInit
deriving DecidableEq, Repr

/-- The outcomes of decoding (R86): a command, or Illegal with the model's name for the reason. -/
inductive Decoded where
  | instr (i : Instr)
  | illegal (why : IllegalReason)
deriving DecidableEq, Repr

/-- `OPC = H[7:0]` (R81). -/
def opcField (h : Word32) : BitVec 8 := h.extractLsb' 0 8

/-- `STRENGTH = H[8]` (R81). -/
def strengthField (h : Word32) : BitVec 1 := h.extractLsb' 8 1

/-- `VSEL = H[10:9]` (R81). -/
def vselField (h : Word32) : BitVec 2 := h.extractLsb' 9 2

/-- The reserved field `H[31:11]` (R81). -/
def reservedField (h : Word32) : BitVec 21 := h.extractLsb' 11 21

/-- 0 Strength256, 1 Strength512 (R81). -/
def strengthOfBit (b : BitVec 1) : Strength := if b = 0 then .strength256 else .strength512

/-- 0 AUTO, 1 PORTABLE, 2 ACCELERATED, 3 reserved (R81). -/
def vselOfBits (v : BitVec 2) : Option VSel :=
  if v = 0 then some .auto else if v = 1 then some .portable else if v = 2 then some .accelerated else none

/-- The INIT command with the variant selector `v` (R90: one row per legal VSEL). -/
def initInstr (s : Strength) (v : VSel) (p : Frame) : Instr :=
  match v with
  | .auto => .initAuto s p
  | .portable => .initPortable s p
  | .accelerated => .initAccel s p

/-- A command other than INIT: every header bit above OPC must be 0 (R81, R86). -/
def decodeBare (h : Word32) (i : Instr) : Decoded :=
  if reservedField h ≠ 0 then .illegal .reservedBits
  else if vselField h ≠ 0 ∨ strengthField h ≠ 0 then .illegal .initFieldOutsideInit
  else .instr i

/-- INIT: `H[31:11]` must be 0 and VSEL must not be 3 (R86). -/
def decodeInit (h : Word32) (p : Frame) : Decoded :=
  if reservedField h ≠ 0 then .illegal .reservedBits
  else match vselOfBits (vselField h) with
    | some v => .instr (initInstr (strengthOfBit (strengthField h)) v p)
    | none => .illegal .reservedVsel

/-- `decode` on the header word and the payload (R86). -/
def decodeHeader (h : Word32) (p : Frame) : Decoded :=
  if opcField h = 0x01 then decodeInit h p
  else if opcField h = 0x02 then decodeBare h (.permute p)
  else if opcField h = 0x03 then decodeBare h (.dispose p)
  else if opcField h = 0x04 then decodeBare h (.probe p)
  else .illegal .unknownOpcode

/-- `decode(F)` (R86). -/
def decode : Frame → Decoded
  | b0 :: b1 :: b2 :: b3 :: p => decodeHeader (ofLE32 b0 b1 b2 b3) p
  | _ => .illegal .shortFrame

/-- The header bit of a strength (R81). -/
def strengthBit : Strength → BitVec 1
  | .strength256 => 0
  | .strength512 => 1

/-- The header bits of a variant selector (R81). -/
def vselBits : VSel → BitVec 2
  | .auto => 0
  | .portable => 1
  | .accelerated => 2

/-- A header from its fields, reserved bits zero (R81). -/
def headerOf (opc : BitVec 8) (s : BitVec 1) (v : BitVec 2) : Word32 := (0 : BitVec 21) ++ v ++ s ++ opc

/-- The header word of a command (R81, R82). -/
def Instr.header : Instr → Word32
  | .initAuto s _ => headerOf 0x01 (strengthBit s) (vselBits .auto)
  | .initPortable s _ => headerOf 0x01 (strengthBit s) (vselBits .portable)
  | .initAccel s _ => headerOf 0x01 (strengthBit s) (vselBits .accelerated)
  | .permute _ => headerOf 0x02 0 0
  | .dispose _ => headerOf 0x03 0 0
  | .probe _ => headerOf 0x04 0 0

/-- The frame of a command: its header, then its payload (R80, R83). -/
def encode (i : Instr) : Frame := le32 i.header ++ i.payload

/-- One row of spec/opcode_table.json: a header `H` is of the row when `H` and the mask is the match (R90). -/
structure TableRow where
  mnemonic : String
  pattern : Word32
  mask : Word32
deriving DecidableEq, Repr

/-- Whether a header word fits a row (R90). -/
def TableRow.fits (row : TableRow) (h : Word32) : Bool := h &&& row.mask == row.pattern

/-- The six rows (R90). -/
def opcodeTable : List TableRow :=
  [⟨"INIT.auto", 0x00000001, 0xFFFFFEFF⟩, ⟨"INIT.portable", 0x00000201, 0xFFFFFEFF⟩,
   ⟨"INIT.accel", 0x00000401, 0xFFFFFEFF⟩, ⟨"PERMUTE", 0x00000002, 0xFFFFFFFF⟩,
   ⟨"DISPOSE", 0x00000003, 0xFFFFFFFF⟩, ⟨"PROBE", 0x00000004, 0xFFFFFFFF⟩]

/-- The mnemonic of a command, as the table spells it. -/
def Instr.mnemonic : Instr → String
  | .initAuto _ _ => "INIT.auto"
  | .initPortable _ _ => "INIT.portable"
  | .initAccel _ _ => "INIT.accel"
  | .permute _ => "PERMUTE"
  | .dispose _ => "DISPOSE"
  | .probe _ => "PROBE"

/-- The first `count` bytes of the number `w`, least significant first. -/
def bytesOfNat : (count w : Nat) → Frame
  | 0, _ => []
  | count + 1, w => BitVec.ofNat 8 w :: bytesOfNat count (w / 256)

/-- The frame whose bits are `w`, bit 0 the least significant of the first byte, every bit above `nbits` zero: four
header bytes, then a payload of the length the header requires (R82; none for an Illegal header). Log entry 15. -/
def frameOfTableWord (nbits w : Nat) : Frame :=
  let v := w % 2 ^ nbits
  match decodeHeader (BitVec.ofNat 32 v) [] with
  | .instr i => bytesOfNat (4 + i.requiredLength) v
  | .illegal _ => bytesOfNat 4 v

/-- The command this decoder reads from the frame whose bits are `w`. -/
def decodeTableWord (nbits w : Nat) : Option Instr :=
  match decode (frameOfTableWord nbits w) with
  | .instr i => some i
  | .illegal _ => none

end Sys2Proof
end

