-- ==== Sys2Proof/Machine/System.lean ====
section
/-! DEFINITION. DISPOSE and PROBE (43_dispose_probe.md R190, R191), and the answer to a frame that does not decode
(60_exceptions.md R244 steps 2, 3). -/

namespace Sys2Proof.Machine

/-- The effect of a DISPOSE that passed every check (R190). -/
def State.wiped (s : State) : State :=
  (s.wipeKey.clearWorking.setMode .disposed .strength256 .portable).respond okCode []

/-- `DISPOSE(P)` behind the dispatch (R190; R244 steps 2, 4, 5, 7). -/
def disposeCommand (p : Frame) (s : State) : State :=
  s.serve fun s =>
    if s.lifecycle = .disposed then s.raise .badLifecycle
    else if p.length ≠ 0 then s.raise .badLength
    else s.wiped

/-- DISPOSE. -/
def execDispose (p : Frame) (s : State) : Host.Outcome State Fault Refusal :=
  .next (disposeCommand p s)

/-- `PROBE(P)` (R191; R244): with an empty payload it is executed in every state, faulted too (step 1); with a
payload it is a command like any other (steps 2, 5). -/
def probeCommand (p : Frame) (s : State) : State :=
  if p.length = 0 then s.respond okCode (le32 s.statusWord)
  else s.serve fun s => s.raise .badLength

/-- PROBE. -/
def execProbe (p : Frame) (s : State) : Host.Outcome State Fault Refusal :=
  .next (probeCommand p s)

/-- A frame that does not decode (R244 steps 2, 3; 30_encoding.md R87): one cause, whatever the reason. -/
def illegalFrame (_why : IllegalReason) (s : State) : State :=
  s.serve fun s => s.raise .illegalCommand

end Sys2Proof.Machine
end

