-- ==== Sys2Proof/Machine/Dispatch.lean ====
section
/-! DEFINITION. One arm per command. -/

namespace Sys2Proof.Machine

def exec (i : Instr) (s : State) : Host.Outcome State Fault Refusal :=
  match i with
  | .initAuto st p => Sys2Proof.Machine.execInitAuto st p s
  | .initPortable st p => Sys2Proof.Machine.execInitPortable st p s
  | .initAccel st p => Sys2Proof.Machine.execInitAccel st p s
  | .permute p => Sys2Proof.Machine.execPermute p s
  | .dispose p => Sys2Proof.Machine.execDispose p s
  | .probe p => Sys2Proof.Machine.execProbe p s

end Sys2Proof.Machine
end

