-- ==== Sys2Proof/Machine/Step.lean ====
section
/-! DEFINITION. One step: the engine takes the next input of the port and handles it to the end (20_memory.md R58,
60_exceptions.md R244, 70_reset_and_hazards.md R270). -/

namespace Sys2Proof.Machine

/-- One step. With nothing sent the engine is idle and holds its state (R249, R270; log entry 4). The reset input is
applied between commands (R270). A frame is decoded and executed, or answered as Illegal (R244). -/
def step (s : State) : Host.Outcome State Fault Refusal :=
  match s.inbox with
  | [] => .next s
  | .reset :: rest => .next (s.setInbox rest).applyReset
  | .frame F :: rest =>
    match decode F with
    | .instr i => exec i (s.setInbox rest)
    | .illegal why => .next (illegalFrame why (s.setInbox rest))

/-- `s` with the frame whose bits are `w` (every bit above `nbits` zero) as the next input of the port, so that the
very next step handles exactly it. Log entry 3 says how a program comes to run from reset. -/
def State.withFetchWord (s : State) (nbits w : Nat) : State :=
  s.setInbox (.frame (frameOfTableWord nbits w) :: s.inbox)

end Sys2Proof.Machine
end

