-- ==== Sys2Proof/Machine/HostSide.lean ====
section
/-! DEFINITION. Outside the engine (00_scope.md R4): the host's counter mode and nonce increment
(49_host_usage.md R213, R214, R226), which the spec determines in full, driving the engine through its port. Log
entry 17. -/

namespace Sys2Proof.Machine

/-- `LE256(B)`, and the little-endian value of a byte string of any length (00_scope.md R6). -/
def natOfBytes : Frame → Nat
  | [] => 0
  | b :: B => b.toNat + 256 * natOfBytes B

/-- `le256(v)` (R6). -/
def le256 (v : Nat) : Block := Bytes.build 32 fun i => BitVec.ofNat 8 (v / 256 ^ i)

/-- `Inc(N) = le256((LE256(N) + 1) mod 2^256)` (R214). -/
def inc (N : Block) : Block := le256 ((natOfBytes N.list + 1) % 2 ^ 256)

/-- The byte-wise form of the increment (R214): add 1, and go on to the next byte while the byte became 0. -/
def incBytes : Frame → Frame
  | [] => []
  | b :: B => if b + 1 = 0 then 0 :: incBytes B else (b + 1) :: B

/-- The keystream block: the payload of the response to `PERMUTE N`, when it is OK (R213). The frame is the next
input the engine takes. -/
def askPermute (s : State) (N : Block) : Option (State × Block) :=
  match step (s.setInbox (.frame (encode (.permute N.list)) :: s.inbox)) with
  | .next t =>
    match t.outbox.getLast? with
    | some r => if r.take 4 = responseFrame okCode [] then (blockOperand (r.drop 4)).map fun KS => (t, KS) else none
    | none => none
  | .fault _ => none
  | .refused _ => none

/-- The loop of `CtrTransform` (R213) for `count` more blocks: the engine and the nonce afterwards, and the output.
The last keystream block is cut to what is left of the input. -/
def ctrBlocks : (count : Nat) → State → Block → Frame → Option (State × Block × Frame)
  | 0, s, N, _ => some (s, N, [])
  | count + 1, s, N, input =>
    match askPermute s N with
    | none => none
    | some (t, KS) =>
      match ctrBlocks count t (inc N) (input.drop 32) with
      | none => none
      | some (u, N', out) => some (u, N', List.zipWith (· ^^^ ·) (input.take 32) KS.list ++ out)

/-- `CtrTransform(N, IN)` (R213), the same for both directions (R226): `ceil(L / 32)` blocks. -/
def ctrTransform (s : State) (N : Block) (input : Frame) : Option (State × Block × Frame) :=
  ctrBlocks ((input.length + 31) / 32) s N input

end Sys2Proof.Machine
end

