-- ==== Sys2Proof/Safety.lean ====
section
/-! DEFINITION. The words claims use: the invariant of the reachable states (10_state.md R36), when a run is over and
when it ended well (70_reset_and_hazards.md R278), and what it means for two states to agree. -/

namespace Sys2Proof.Machine

/-- The invariant of every reachable state (R36 (a) to (f), and the two exclusions below the table of
96_command_traces_and_reference_script.md part A). The clauses on `rk` also say what the model lists: everything
while Keyed or Disposed, nothing while Created. -/
structure State.Inv (s : State) : Prop where
  /-- The round-key store keeps its canonical form. -/
  memWf : Memory.wf s.rk = true
  /-- (a) Keyed: every byte of the store was stored. -/
  keyedStored : s.lifecycle = .keyed → ∀ a, a < rkCapacity → ∃ v, Memory.read s.rk a = some v
  /-- (a) Keyed: the store is zero above the material in use. -/
  keyedTail : s.lifecycle = .keyed →
    ∀ a, rkBytes s.strength ≤ a → a < rkCapacity → Memory.read s.rk a = some 0
  /-- (b) Disposed: the store is zero. -/
  disposedZero : s.lifecycle = .disposed → ∀ a, a < rkCapacity → Memory.read s.rk a = some 0
  /-- (c) Created: nothing was stored since reset. -/
  createdReset : s.lifecycle = .created → s.rk = []
  /-- (b), (c) STRENGTH and VARIANT are 0 outside Keyed. -/
  modeZero : s.lifecycle ≠ .keyed → s.strength = .strength256 ∧ s.variant = .portable
  /-- (d) FAULT = 0 if and only if CAUSE = 0. -/
  faultCause : s.fault = false ↔ s.cause = 0
  /-- CAUSE is 0 or a cause code (R25). -/
  causeRange : s.cause.toNat ≤ 4
  /-- (e) VARIANT = 1 implies ACCEL_PRESENT. -/
  variantPresent : s.variant = .accelerated → s.accelPresent = true
  /-- (f) Between commands W and RND are clean. -/
  workingClean : s.w = Bytes.zeros 32 ∧ s.rnd = 0
  /-- No BadLifecycle is recorded while Keyed. -/
  keyedCause : s.lifecycle = .keyed → s.cause ≠ Cause.code .badLifecycle
  /-- No VariantUnavailable is recorded where the accelerated datapath is present. -/
  accelCause : s.accelPresent = true → s.cause ≠ Cause.code .variantUnavailable

/-- The run is over: the list of inputs is exhausted (R278). -/
def State.runOver (s : State) : Prop := s.inbox = []

/-- A good end: the run is over and the engine is not faulted (R278). -/
def State.goodEnd (s : State) : Prop := s.runOver ∧ s.fault = false

/-- Nothing of the engine differs between `s` and `t`: at most the port does. -/
def State.sameEngine (s t : State) : Prop := t = { s with inbox := t.inbox, outbox := t.outbox }

/-- `s` and `t` differ at most in the round-key store (and in what it held at earlier resets). -/
def State.agreeButKey (s t : State) : Prop := t = { s with rk := t.rk, resetHistory := t.resetHistory }

/-- The next input is a PERMUTE that passes every check of the dispatch (60_exceptions.md R244). -/
def State.permuteNext (s : State) : Prop :=
  s.fault = false ∧ s.lifecycle = .keyed ∧
    ∃ (X : Block) (rest : List PortEvent), s.inbox = .frame (encode (.permute X.list)) :: rest

/-- The number of command frames among the inputs. -/
def frameCount : List PortEvent → Nat
  | [] => 0
  | .frame _ :: rest => frameCount rest + 1
  | .reset :: rest => frameCount rest

/-- The length of the round-key material, in the numbers of 30_encoding.md R82. -/
def materialLength : Strength → Nat
  | .strength256 => 736
  | .strength512 => 992

/-- The number of rounds, in the numbers of 41_permute_portable.md R130. -/
def roundCount : Strength → Nat
  | .strength256 => 22
  | .strength512 => 30

/-- Round key `r` of an INIT payload: bytes `32r .. 32r+31` (20_memory.md R53). -/
def keyOfPayload (p : Frame) (r : Nat) : Block := Bytes.build 32 fun i => p.getD (32 * r + i) 0

/-- `s` after a contract violation with code `c` and nothing else (60_exceptions.md R242). -/
def State.violated (s : State) (c : Byte) : State :=
  { s with fault := true, cause := c, outbox := s.outbox ++ [[c, 0, 0, 0]] }

/-- `t` is `s` after an INIT that was answered OK, with the variant `v` (40_init_keyload.md R110): `RK`, STRENGTH,
VARIANT and LIFECYCLE are written, the response is code 0, everything else is as it was. -/
def State.keyedBy (s : State) (st : Strength) (v : Variant) (p : Frame) (t : State) : Prop :=
  (∀ a, a < 992 → t.rkByte a = if a < p.length then p.getD a 0 else 0) ∧
    t = { s with rk := t.rk, strength := st, variant := v, lifecycle := .keyed,
                 outbox := s.outbox ++ [[0, 0, 0, 0]] }

/-- `t` keeps what a command that is no INIT, DISPOSE or reset keeps: the mode, the key store byte by byte, the
configuration and the pending inputs. -/
def State.keepsKeyAndMode (s t : State) : Prop :=
  t.lifecycle = s.lifecycle ∧ t.strength = s.strength ∧ t.variant = s.variant ∧
    (∀ a, t.rkByte a = s.rkByte a) ∧ t.accelPresent = s.accelPresent ∧ t.inbox = s.inbox

/-- The encodings of 10_state.md R21, R22, R23 as numbers. -/
def lifecycleNumber : Lifecycle → Nat
  | .created => 0
  | .keyed => 1
  | .disposed => 2

def strengthNumber : Strength → Nat
  | .strength256 => 0
  | .strength512 => 1

def variantNumber : Variant → Nat
  | .portable => 0
  | .accelerated => 1

/-- The PROBE status word by the sum of 30_encoding.md R91. -/
def State.statusNumber (s : State) : Nat :=
  lifecycleNumber s.lifecycle + 4 * strengthNumber s.strength + 8 * variantNumber s.variant +
    16 * s.accelPresent.toNat + 32 * s.fault.toNat + 256 * s.cause.toNat

/-- The lifecycle check, step 4 of 60_exceptions.md R244: true when it fails. -/
def lifecycleCheckFails (l : Lifecycle) : Instr → Bool
  | .permute _ => l != .keyed
  | .dispose _ => l == .disposed
  | _ => false

/-- The payload length, step 5 of R244, in the numbers of 30_encoding.md R82. -/
def demandedLength : Instr → Nat
  | .initAuto st _ => materialLength st
  | .initPortable st _ => materialLength st
  | .initAccel st _ => materialLength st
  | .permute _ => 32
  | .dispose _ => 0
  | .probe _ => 0

/-- The variant check, step 6 of R244: true when it fails. -/
def variantCheckFails (accel : Bool) : Instr → Bool
  | .initAccel _ _ => !accel
  | _ => false

/-- The response code by the order of R244: the first line that applies decides. -/
def dispatchCode (s : State) (d : Decoded) : Byte :=
  if d = .instr (.probe []) then 0
  else if s.fault then 5
  else match d with
    | .illegal _ => 1
    | .instr i =>
      if lifecycleCheckFails s.lifecycle i then 2
      else if i.payload.length ≠ demandedLength i then 3
      else if variantCheckFails s.accelPresent i then 4
      else 0

end Sys2Proof.Machine
end

