-- ==== Sys2Proof/Certificates/Slice0/Obligations.lean ====
section
/-! DEFINITION. The statements for the provers. Each cites the rule of spec/ it formalises; numbers are written out
from the rule where the model has a name for them. -/

open Sys2Proof Sys2Proof.Machine

/-! ### Encoding -/

/-- The frames 30_encoding.md R89 writes out. -/
def Obligations.SampleFramesDecode : Prop :=
  decode [0x04, 0x00, 0x00, 0x00] = .instr (.probe []) ∧
  decode [0x03, 0x00, 0x00, 0x00] = .instr (.dispose []) ∧
  decode (0x02 :: 0x00 :: 0x00 :: 0x00 :: zeros 32) = .instr (.permute (zeros 32)) ∧
  decode (0x01 :: 0x00 :: 0x00 :: 0x00 :: zeros 4) = .instr (.initAuto .strength256 (zeros 4)) ∧
  decode (0x01 :: 0x01 :: 0x00 :: 0x00 :: zeros 4) = .instr (.initAuto .strength512 (zeros 4)) ∧
  decode (0x01 :: 0x02 :: 0x00 :: 0x00 :: zeros 4) = .instr (.initPortable .strength256 (zeros 4)) ∧
  decode (0x01 :: 0x03 :: 0x00 :: 0x00 :: zeros 4) = .instr (.initPortable .strength512 (zeros 4)) ∧
  decode (0x01 :: 0x04 :: 0x00 :: 0x00 :: zeros 4) = .instr (.initAccel .strength256 (zeros 4)) ∧
  decode (0x01 :: 0x05 :: 0x00 :: 0x00 :: zeros 4) = .instr (.initAccel .strength512 (zeros 4)) ∧
  (∃ why, decode (0x01 :: 0x06 :: 0x00 :: 0x00 :: zeros 4) = .illegal why) ∧
  (∃ why, decode (0x01 :: 0x07 :: 0x00 :: 0x00 :: zeros 4) = .illegal why)

/-- A frame decodes to a command exactly when it is that command's encoding: every operand at every value, and no
second encoding of anything (30_encoding.md R81, R83, R86). -/
def Obligations.DecodeInvertsEncode : Prop :=
  ∀ (F : Frame) (i : Instr), decode F = .instr i ↔ F = encode i

/-- The Illegal frames are exactly those R87 lists, by the numeric value of the header, and each is a contract
violation with cause 1. -/
def Obligations.IllegalFramesAreTheListedOnes : Prop :=
  (∀ F : Frame, (∃ why, decode F = .illegal why) ↔
    F.length < 4 ∨
    (let H := natOfBytes (F.take 4)
     H % 256 = 0 ∨ 5 ≤ H % 256 ∨ H / 2048 ≠ 0 ∨
       (2 ≤ H % 256 ∧ H % 256 ≤ 4 ∧ H / 256 % 8 ≠ 0) ∨ (H % 256 = 1 ∧ H / 512 % 4 = 3))) ∧
  ∀ (s : State) (F : Frame) (rest : List PortEvent) (why : IllegalReason),
    s.inbox = .frame F :: rest → decode F = .illegal why → s.fault = false →
      step s = .next ((s.setInbox rest).violated 1)

/-- The opcode table and the decoder agree: a decoded frame's header fits the row of its mnemonic, no header fits two
rows, and a header that fits none is Illegal (30_encoding.md R90). -/
def Obligations.OpcodeTableClassifiesHeaders : Prop :=
  (∀ (b0 b1 b2 b3 : Byte) (p : Frame) (i : Instr), decode (b0 :: b1 :: b2 :: b3 :: p) = .instr i →
    ∃ row ∈ opcodeTable, row.mnemonic = i.mnemonic ∧ row.fits (ofLE32 b0 b1 b2 b3) = true) ∧
  (∀ (h : Word32), ∀ row ∈ opcodeTable, ∀ row' ∈ opcodeTable,
    row.fits h = true → row'.fits h = true → row = row') ∧
  (∀ (b0 b1 b2 b3 : Byte) (p : Frame),
    (∃ why, decode (b0 :: b1 :: b2 :: b3 :: p) = .illegal why) ↔
      ∀ row ∈ opcodeTable, row.fits (ofLE32 b0 b1 b2 b3) = false)

/-! ### The step -/

/-- A step at a frame that decodes is `exec` of the decoded command, after the frame is taken from the port
(20_memory.md R58, 60_exceptions.md R244). -/
def Obligations.StepRunsDecodedCommand : Prop :=
  ∀ (s : State) (F : Frame) (rest : List PortEvent) (i : Instr),
    s.inbox = .frame F :: rest → decode F = .instr i → step s = exec i (s.setInbox rest)

/-- With nothing sent the engine holds its state (60_exceptions.md R249, 70_reset_and_hazards.md R270). The step that
changes nothing is the model's choice: log entry 4. -/
def Obligations.IdleEngineHoldsState : Prop :=
  ∀ s : State, s.inbox = [] → step s = .next s

/-- The reset input: every component at the value of 10_state.md R37; what `RK` holds is not said. That the port
keeps its pending inputs and its responses is the model's choice: log entry 6. -/
def Obligations.ResetInputEntersResetState : Prop :=
  ∀ (s : State) (rest : List PortEvent), s.inbox = .reset :: rest →
    ∃ t, step s = .next t ∧ t.lifecycle = .created ∧ t.strength = .strength256 ∧ t.variant = .portable ∧
      t.fault = false ∧ t.cause = 0 ∧ t.w.list = zeros 32 ∧ t.rnd = 0 ∧
      t.accelPresent = s.accelPresent ∧ t.inbox = rest ∧ t.outbox = s.outbox

/-- Every step answers a next state. For a command: each is a bounded computation that faults or takes full effect
(60_exceptions.md R245, R246, 70_reset_and_hazards.md R274). For the reset input: R270. That an idle engine (R249) has
a step at all is the model's choice: log entry 4. That nothing, a contract violation included, stops the machine is
the model's inference: log entry 13. -/
def Obligations.EveryStepAnswers : Prop :=
  ∀ s : State, ∃ t, step s = .next t

/-! ### INIT -/

/-- INIT.auto executes when the engine is not faulted and the payload has the strength's length; it resolves to
Accelerated if the datapath is present, else to Portable (40_init_keyload.md R110, R111). -/
def Obligations.InitAutoLoadsKey : Prop :=
  ∀ (s : State) (st : Strength) (p : Frame), s.fault = false → p.length = materialLength st →
    ∃ t, exec (.initAuto st p) s = .next t ∧
      s.keyedBy st (if s.accelPresent then .accelerated else .portable) p t

/-- INIT.portable executes when the engine is not faulted and the payload has the strength's length (R110, R111). -/
def Obligations.InitPortableLoadsKey : Prop :=
  ∀ (s : State) (st : Strength) (p : Frame), s.fault = false → p.length = materialLength st →
    ∃ t, exec (.initPortable st p) s = .next t ∧ s.keyedBy st .portable p t

/-- INIT.accel executes when moreover the accelerated datapath is present (R110, R111). -/
def Obligations.InitAccelLoadsKey : Prop :=
  ∀ (s : State) (st : Strength) (p : Frame), s.fault = false → s.accelPresent = true →
    p.length = materialLength st →
      ∃ t, exec (.initAccel st p) s = .next t ∧ s.keyedBy st .accelerated p t

/-- An INIT whose payload has not the strength's length is BadLength, whatever the selector and the datapath; nothing
but FAULT and CAUSE changes (R110, 60_exceptions.md R241, R242). -/
def Obligations.InitWrongLengthFaults : Prop :=
  ∀ (s : State) (st : Strength) (p : Frame), s.fault = false → p.length ≠ materialLength st →
    exec (.initAuto st p) s = .next (s.violated 3) ∧ exec (.initPortable st p) s = .next (s.violated 3) ∧
      exec (.initAccel st p) s = .next (s.violated 3)

/-- Forcing the accelerated variant on an instance without it is VariantUnavailable (R110, R241). -/
def Obligations.InitAccelWithoutDatapathFaults : Prop :=
  ∀ (s : State) (st : Strength) (p : Frame), s.fault = false → s.accelPresent = false →
    p.length = materialLength st → exec (.initAccel st p) s = .next (s.violated 4)

/-- After an INIT answered OK no byte of the store depends on what it held before, and under Strength256 the bytes
736 to 991 are zero (40_init_keyload.md R112). -/
def Obligations.InitLeavesNoOldKeyByte : Prop :=
  ∀ (s s' t t' : State) (v : VSel) (st : Strength) (p : Frame), s.fault = false → s'.fault = false →
    (v = .accelerated → s.accelPresent = true ∧ s'.accelPresent = true) → p.length = materialLength st →
    exec (initInstr st v p) s = .next t → exec (initInstr st v p) s' = .next t' →
      (∀ a, a < 992 → t.rkByte a = t'.rkByte a) ∧
        (st = .strength256 → ∀ a, 736 ≤ a → a < 992 → t.rkByte a = 0)

/-- The frame of the three INITs, on every path: the working registers, the configuration, the pending inputs are
kept; either FAULT and CAUSE are kept, or every byte of the store and the mode are. -/
def Obligations.InitFrame : Prop :=
  ∀ (s t : State) (v : VSel) (st : Strength) (p : Frame), exec (initInstr st v p) s = .next t →
    t.w = s.w ∧ t.rnd = s.rnd ∧ t.accelPresent = s.accelPresent ∧ t.resetHistory = s.resetHistory ∧
      t.inbox = s.inbox ∧ ((t.fault = s.fault ∧ t.cause = s.cause) ∨ s.keepsKeyAndMode t)

/-! ### PERMUTE -/

/-- PERMUTE executes in Keyed when the engine is not faulted: the answer is Perm of 41_permute_portable.md R131 with
22 or 30 rounds and the round keys in the store, whichever variant is selected; the working registers are left
clean and nothing else changes (R130, R176). -/
def Obligations.PermuteAnswersPermutedBlock : Prop :=
  ∀ (s : State) (X : Block), s.fault = false → s.lifecycle = .keyed →
    exec (.permute X.list) s = .next
      { s with
        w := Bytes.zeros 32, rnd := 0,
        outbox := s.outbox ++
          [0x00 :: 0x00 :: 0x00 :: 0x00 :: (perm s.roundKey (roundCount s.strength) X).list] }

/-- PERMUTE in Created or Disposed is BadLifecycle, whatever the payload (R130, 60_exceptions.md R241, R244). -/
def Obligations.PermuteOutsideKeyedFaults : Prop :=
  ∀ (s : State) (p : Frame), s.fault = false → s.lifecycle ≠ .keyed →
    exec (.permute p) s = .next (s.violated 2)

/-- PERMUTE in Keyed with a payload that is not exactly 32 bytes is BadLength (R130, R241). -/
def Obligations.PermuteWrongLengthFaults : Prop :=
  ∀ (s : State) (p : Frame), s.fault = false → s.lifecycle = .keyed → p.length ≠ 32 →
    exec (.permute p) s = .next (s.violated 3)

/-- The frame of PERMUTE, on every path: the mode, every byte of the store, the configuration and the pending inputs
are kept; the working registers are kept or left clean; unless a violation is recorded FAULT and CAUSE are kept
(R130). -/
def Obligations.PermuteFrame : Prop :=
  ∀ (s t : State) (p : Frame), exec (.permute p) s = .next t →
    s.keepsKeyAndMode t ∧ t.resetHistory = s.resetHistory ∧
      ((t.w = s.w ∧ t.rnd = s.rnd) ∨ (t.w = Bytes.zeros 32 ∧ t.rnd = 0)) ∧
      ((t.fault = s.fault ∧ t.cause = s.cause) ∨
        (s.fault = false ∧ (s.lifecycle ≠ .keyed ∨ p.length ≠ 32) ∧ t.w = s.w ∧ t.rnd = s.rnd))

/-- The two variants are one function, byte for byte (42_permute_accelerated.md R176). -/
def Obligations.VariantsComputeOnePermutation : Prop :=
  ∀ (k : Nat → Block) (n : Nat) (X : Block), 1 ≤ n → (permAccel k n X).w = (permPortable k n X).w

/-- The portable datapath over the working registers computes Perm, and RND ends at the last round
(41_permute_portable.md R131, R142). -/
def Obligations.PortableDatapathComputesPerm : Prop :=
  ∀ (k : Nat → Block) (n : Nat) (X : Block), 1 ≤ n →
    (permPortable k n X).w = perm k n X ∧ (permPortable k n X).rnd = n

/-- Every step of a round, and the whole permutation, is a bijection on 32-byte blocks (R145). -/
def Obligations.PermutationIsBijective : Prop :=
  Function.Bijective (fun A : Block => subBytes A) ∧ Function.Bijective shiftRows ∧
  Function.Bijective (fun A : Block => mixColumns A) ∧
  (∀ (k : Nat → Block) (r : Nat), Function.Bijective fun A => addRoundKey k A r) ∧
  ∀ (k : Nat → Block) (n : Nat), Function.Bijective (perm k n)

/-- The answer depends on the material in use and the block and on nothing else: not on the store above it, not on the
variant (R130; 20_memory.md R50). -/
def Obligations.AnswerDependsOnMaterialInUse : Prop :=
  ∀ (s s' : State) (X : Block), s.fault = false → s'.fault = false → s.lifecycle = .keyed →
    s'.lifecycle = .keyed → s.strength = s'.strength →
    (∀ a, a < materialLength s.strength → s.rkByte a = s'.rkByte a) →
      ∃ t t' r, exec (.permute X.list) s = .next t ∧ exec (.permute X.list) s' = .next t' ∧
        t.outbox = s.outbox ++ [r] ∧ t'.outbox = s'.outbox ++ [r]

/-- Byte `i` of round key `r` is `RK[32r + i]`, and so the key addition and the lane keys read the store where R53 and
R139 say. -/
def Obligations.RoundKeysAreStoreSlices : Prop :=
  ∀ (s : State) (A : Block) (r : Nat),
    (∀ i, i < 32 → (addRoundKey s.roundKey A r).get i = A.get i ^^^ s.rkByte (32 * r + i)) ∧
    (∀ i, i < 16 → (laneKey0 s.roundKey r).get i = s.rkByte (16 * (2 * r) + i)) ∧
    (∀ i, i < 16 → (laneKey1 s.roundKey r).get i = s.rkByte (16 * (2 * r + 1) + i))

/-- A PERMUTE sees the key an INIT before it loaded, whichever variant the INIT selected (20_memory.md R58 (a),
70_reset_and_hazards.md R273). -/
def Obligations.PermuteUsesKeyJustLoaded : Prop :=
  ∀ (s : State) (v : VSel) (st : Strength) (p : Frame) (X : Block), s.fault = false →
    (v = .accelerated → s.accelPresent = true) → p.length = materialLength st →
      ∃ t u, exec (initInstr st v p) s = .next t ∧ exec (.permute X.list) t = .next u ∧
        u.outbox = s.outbox ++ [[0, 0, 0, 0],
          0x00 :: 0x00 :: 0x00 :: 0x00 :: (perm (keyOfPayload p) (roundCount st) X).list]

/-- Two PERMUTEs with one payload and nothing between them answer the same (20_memory.md R58 (c)), and the second
changes nothing of the engine. -/
def Obligations.RepeatedPermuteAnswersTheSame : Prop :=
  ∀ (s : State) (X : Block), s.fault = false → s.lifecycle = .keyed →
    ∃ t u r, exec (.permute X.list) s = .next t ∧ exec (.permute X.list) t = .next u ∧
      t.outbox = s.outbox ++ [r] ∧ u.outbox = s.outbox ++ [r, r] ∧ t.sameEngine u

/-! ### The steps of a round -/

/-- `xtime` is linear and `gmul` is the field's product as R133 defines it: bilinear, with the three multipliers the
engine uses. -/
def Obligations.FieldArithmeticLaws : Prop :=
  (∀ a b : Byte, xtime (a ^^^ b) = xtime a ^^^ xtime b) ∧
  (∀ a b c : Byte, gmul (a ^^^ b) c = gmul a c ^^^ gmul b c) ∧
  (∀ a b c : Byte, gmul a (b ^^^ c) = gmul a b ^^^ gmul a c) ∧
  (∀ (a : Byte) (i : Nat), i < 8 → gmul a (BitVec.twoPow 8 i) = xtime^[i] a) ∧
  (∀ a : Byte, gmul a 1 = a ∧ gmul a 2 = xtime a ∧ gmul a 3 = xtime a ^^^ a)

/-- The S-box table is the table of R134's formula, a bijection with no fixed point, and INV_SBOX is its inverse
(R134, R135). -/
def Obligations.SboxMeetsItsFormula : Prop :=
  (∀ a b : Byte, (a = 0 ∧ b = 0 ∨ gmul a b = 1) →
    sbox a = b ^^^ b.rotateLeft 1 ^^^ b.rotateLeft 2 ^^^ b.rotateLeft 3 ^^^ b.rotateLeft 4 ^^^ 0x63) ∧
  (∀ a : Byte, a ≠ 0 → ∃ b, gmul a b = 1) ∧
  (∀ a : Byte, invSbox (sbox a) = a ∧ sbox (invSbox a) = a ∧ sbox a ≠ a)

/-- `ShiftRows` (R137): its index formula with the offsets 0, 1, 3, 4, a bijection that commutes with `SubBytes` and
keeps blocks of equal bytes. -/
def Obligations.ShiftRowsMovesRows : Prop :=
  (∀ (A : Block) (c : Nat), c < 8 →
    (shiftRows A).get (4 * c) = A.get (4 * c) ∧
    (shiftRows A).get (4 * c + 1) = A.get (4 * ((c + 1) % 8) + 1) ∧
    (shiftRows A).get (4 * c + 2) = A.get (4 * ((c + 3) % 8) + 2) ∧
    (shiftRows A).get (4 * c + 3) = A.get (4 * ((c + 4) % 8) + 3)) ∧
  Function.Bijective shiftRows ∧
  (∀ b : Byte, shiftRows (Bytes.build 32 fun _ => b) = Bytes.build 32 fun _ => b) ∧
  ∀ A : Block, shiftRows (subBytes A) = subBytes (shiftRows A)

/-- `MixColumns` (R138), on a block and on a lane: the four sums, linearity, invertibility, and columns of equal bytes
kept. -/
def Obligations.MixColumnsMixesColumns : Prop :=
  (∀ (A : Block) (c : Nat), c < 8 →
    let a0 := A.get (4 * c); let a1 := A.get (4 * c + 1); let a2 := A.get (4 * c + 2); let a3 := A.get (4 * c + 3)
    (mixColumns A).get (4 * c) = gmul a0 2 ^^^ gmul a1 3 ^^^ a2 ^^^ a3 ∧
    (mixColumns A).get (4 * c + 1) = a0 ^^^ gmul a1 2 ^^^ gmul a2 3 ^^^ a3 ∧
    (mixColumns A).get (4 * c + 2) = a0 ^^^ a1 ^^^ gmul a2 2 ^^^ gmul a3 3 ∧
    (mixColumns A).get (4 * c + 3) = gmul a0 3 ^^^ a1 ^^^ a2 ^^^ gmul a3 2) ∧
  (∀ (A : Lane) (c : Nat), c < 4 →
    let a0 := A.get (4 * c); let a1 := A.get (4 * c + 1); let a2 := A.get (4 * c + 2); let a3 := A.get (4 * c + 3)
    (mixColumns A).get (4 * c) = gmul a0 2 ^^^ gmul a1 3 ^^^ a2 ^^^ a3 ∧
    (mixColumns A).get (4 * c + 1) = a0 ^^^ gmul a1 2 ^^^ gmul a2 3 ^^^ a3 ∧
    (mixColumns A).get (4 * c + 2) = a0 ^^^ a1 ^^^ gmul a2 2 ^^^ gmul a3 3 ∧
    (mixColumns A).get (4 * c + 3) = gmul a0 3 ^^^ a1 ^^^ a2 ^^^ gmul a3 2) ∧
  (∀ A B : Block, mixColumns (A.xor B) = (mixColumns A).xor (mixColumns B)) ∧
  (∀ A B : Lane, mixColumns (A.xor B) = (mixColumns A).xor (mixColumns B)) ∧
  Function.Bijective (fun A : Block => mixColumns A) ∧
  Function.Bijective (fun A : Lane => mixColumns A) ∧
  (∀ (A : Block) (c : Nat) (b : Byte), c < 8 → (∀ r, r < 4 → A.get (4 * c + r) = b) →
    ∀ r, r < 4 → (mixColumns A).get (4 * c + r) = b) ∧
  ∀ (A : Lane) (c : Nat) (b : Byte), c < 4 → (∀ r, r < 4 → A.get (4 * c + r) = b) →
    ∀ r, r < 4 → (mixColumns A).get (4 * c + r) = b

/-- `Blend` (42_permute_accelerated.md R173): the positions taken from the second lane are 1, 2, 3, 6, 7, 10, 11, 15,
and the two blends together hold every byte of both lanes once. -/
def Obligations.BlendTakesTheListedPositions : Prop :=
  (∀ (A B : Lane) (j : Nat), j < 16 →
    (blend A B).get j = if j ∈ [1, 2, 3, 6, 7, 10, 11, 15] then B.get j else A.get j) ∧
  ∀ (A B : Lane) (j : Nat), j < 16 →
    ((blend A B).get j = A.get j ∧ (blend B A).get j = B.get j) ∨
      ((blend A B).get j = B.get j ∧ (blend B A).get j = A.get j)

/-- `Shuffle` (R174): rows 0 and 1 stay, rows 2 and 3 are rotated left by one lane column. -/
def Obligations.ShuffleRotatesLowerRows : Prop :=
  ∀ (A : Lane) (c : Nat), c < 4 →
    (shuffle A).get (4 * c) = A.get (4 * c) ∧ (shuffle A).get (4 * c + 1) = A.get (4 * c + 1) ∧
    (shuffle A).get (4 * c + 2) = A.get (4 * ((c + 1) % 4) + 2) ∧
    (shuffle A).get (4 * c + 3) = A.get (4 * ((c + 1) % 4) + 3)

/-- The heart of R176: blend, shuffle and the lanes' own row shift make up the row shift of the wide block. -/
def Obligations.LanesShiftTheWideBlock : Prop :=
  ∀ W : Block,
    joinLanes (shiftRows4 (shuffle (blend (lane0 W) (lane1 W)))) (shiftRows4 (shuffle (blend (lane1 W) (lane0 W)))) =
      shiftRows W

/-! ### DISPOSE and PROBE -/

/-- DISPOSE executes in Created and Keyed when the engine is not faulted and the payload is empty: all 992 bytes of
the store are zero, STRENGTH and VARIANT are 0, the working registers clean, the engine Disposed, and nothing else
changes (43_dispose_probe.md R190). -/
def Obligations.DisposeWipesKey : Prop :=
  ∀ s : State, s.fault = false → s.lifecycle ≠ .disposed →
    ∃ t, exec (.dispose []) s = .next t ∧ (∀ a, a < 992 → t.rkByte a = 0) ∧
      t = { s with rk := t.rk, strength := .strength256, variant := .portable, w := Bytes.zeros 32, rnd := 0,
                   lifecycle := .disposed, outbox := s.outbox ++ [[0, 0, 0, 0]] }

/-- DISPOSE in Disposed is BadLifecycle whatever the payload; elsewhere a payload is BadLength (R190, R244). -/
def Obligations.DisposeViolations : Prop :=
  ∀ (s : State) (p : Frame), s.fault = false →
    (s.lifecycle = .disposed → exec (.dispose p) s = .next (s.violated 2)) ∧
    (s.lifecycle ≠ .disposed → p ≠ [] → exec (.dispose p) s = .next (s.violated 3))

/-- The frame of DISPOSE, on every path: the configuration and the pending inputs are kept; either FAULT and CAUSE are
kept, or the mode, every byte of the store and the working registers are. -/
def Obligations.DisposeFrame : Prop :=
  ∀ (s t : State) (p : Frame), exec (.dispose p) s = .next t →
    t.accelPresent = s.accelPresent ∧ t.resetHistory = s.resetHistory ∧ t.inbox = s.inbox ∧
      ((t.fault = s.fault ∧ t.cause = s.cause) ∨ (s.keepsKeyAndMode t ∧ t.w = s.w ∧ t.rnd = s.rnd))

/-- PROBE with an empty payload executes in every state, faulted too: it answers the sum of R91 and changes nothing
(R191). -/
def Obligations.ProbeReportsStatusWord : Prop :=
  ∀ s : State, exec (.probe []) s = .next
    { s with outbox := s.outbox ++
        [[0x00, 0x00, 0x00, 0x00] ++ le32 (BitVec.ofNat 32 s.statusNumber)] }

/-- A PROBE with a payload is BadLength on an engine that is not faulted (R191, R241). -/
def Obligations.ProbeWithPayloadFaults : Prop :=
  ∀ (s : State) (p : Frame), s.fault = false → p ≠ [] → exec (.probe p) s = .next (s.violated 3)

/-- The frame of PROBE, on every path: only the response, FAULT and CAUSE may change. -/
def Obligations.ProbeFrame : Prop :=
  ∀ (s t : State) (p : Frame), exec (.probe p) s = .next t →
    s.keepsKeyAndMode t ∧ t.resetHistory = s.resetHistory ∧ t.w = s.w ∧ t.rnd = s.rnd ∧
      (p = [] ∨ s.fault = true → t.fault = s.fault ∧ t.cause = s.cause)

/-! ### Faults, dispatch, responses -/

/-- A faulted engine: a PROBE with empty payload is executed and reports FAULT and CAUSE; every other frame, legal or
not, is answered with code 5 and changes nothing; only reset leads out (60_exceptions.md R243). -/
def Obligations.FaultedEngineAnswersCode5 : Prop :=
  ∀ (s : State), s.fault = true →
    (∀ (F : Frame) (rest : List PortEvent), s.inbox = .frame F :: rest →
      (decode F = .instr (.probe []) → step s = .next
        { s with inbox := rest,
                 outbox := s.outbox ++ [[0, 0, 0, 0] ++ le32 (BitVec.ofNat 32 s.statusNumber)] }) ∧
      (decode F ≠ .instr (.probe []) → step s = .next
        { s with inbox := rest, outbox := s.outbox ++ [[5, 0, 0, 0]] })) ∧
    ∀ t, step s = .next t → t.fault = false → ∃ rest, s.inbox = .reset :: rest

/-- The fault entry is precise: the step that sets FAULT changes FAULT, CAUSE and the port and nothing else, the code
answered is the cause recorded, one of 1 to 4 (60_exceptions.md R242, R246). -/
def Obligations.FaultEntryIsPrecise : Prop :=
  ∀ s t : State, step s = .next t → s.fault = false → t.fault = true →
    ∃ (F : Frame) (rest : List PortEvent) (c : Byte), s.inbox = .frame F :: rest ∧ 1 ≤ c.toNat ∧ c.toNat ≤ 4 ∧
      t = (s.setInbox rest).violated c

/-- The order of the checks: the response code is the one the first line of R244 that applies gives. -/
def Obligations.FirstCheckThatFailsIsReported : Prop :=
  ∀ (s : State) (F : Frame) (rest : List PortEvent), s.inbox = .frame F :: rest →
    ∃ t payload, step s = .next t ∧
      t.outbox = s.outbox ++ [responseFrame (dispatchCode s (decode F)) payload] ∧
      (dispatchCode s (decode F) ≠ 0 → payload = [])

/-- Every frame is answered by exactly one response frame: the code, three zero bytes, then a payload; a code other
than 0 has no payload; with code 0 the payload is 32 bytes for PERMUTE, 4 for PROBE, none for INIT and DISPOSE
(30_encoding.md R80, R84). -/
def Obligations.ResponseFormatIsLegal : Prop :=
  ∀ (s t : State) (F : Frame) (rest : List PortEvent), s.inbox = .frame F :: rest → step s = .next t →
    ∃ (code : Byte) (payload : Frame), t.inbox = rest ∧
      t.outbox = s.outbox ++ [code :: 0x00 :: 0x00 :: 0x00 :: payload] ∧ code.toNat ≤ 5 ∧
      (code ≠ 0 → payload = []) ∧
      (code = 0 → ∃ i, decode F = .instr i ∧ payload.length =
        match i with
        | .permute _ => 32
        | .probe _ => 4
        | .initAuto _ _ => 0
        | .initPortable _ _ => 0
        | .initAccel _ _ => 0
        | .dispose _ => 0)

/-- The lifecycle table of 43_dispose_probe.md R192, for an engine that is not faulted: exactly the commands that fail a
check of 60_exceptions.md R244 fault, a fault keeps LIFECYCLE, and every other command moves it as the table says. -/
def Obligations.LifecycleFollowsTheTable : Prop :=
  ∀ (i : Instr) (s t : State), s.fault = false → exec i s = .next t →
    (t.fault = true ↔ dispatchCode s (.instr i) ≠ 0) ∧
    (t.fault = true → t.lifecycle = s.lifecycle) ∧
    (t.fault = false → t.lifecycle =
      match i with
      | .initAuto _ _ => .keyed
      | .initPortable _ _ => .keyed
      | .initAccel _ _ => .keyed
      | .permute _ => s.lifecycle
      | .dispose _ => .disposed
      | .probe _ => s.lifecycle) ∧
    ((∃ p, i = .permute p) → s.lifecycle ≠ .keyed → t.fault = true ∧ t.cause = 2) ∧
    ((∃ p, i = .dispose p) → s.lifecycle = .disposed → t.fault = true ∧ t.cause = 2)

/-! ### Whole-machine rules -/

/-- The invariant of 10_state.md R36 holds at reset. The clauses on what `rk` lists are the model's (log entry 2). -/
def Obligations.InvariantHoldsAtReset : Prop := State.reset.Inv

/-- Every step keeps the invariant of R36, from every state that meets it. -/
def Obligations.StepKeepsInvariant : Prop :=
  ∀ s t : State, s.Inv → step s = .next t → t.Inv

/-- Every state reached from reset by any sequence of inputs meets the invariant (R36). The clauses on what `rk` lists
are the model's: log entry 2. -/
def Obligations.ReachableStatesMeetInvariant : Prop :=
  ∀ (inputs : List PortEvent) (k : Nat) (t : State),
    Sys2Proof.core.run k (State.reset.setInbox inputs) = .next t → t.Inv

/-- A run takes every input and answers every frame: after as many steps as there are inputs the list is exhausted
and there is one new response per frame (70_reset_and_hazards.md R278, 30_encoding.md R80). Where a reset input is
among the inputs this is the model's choice: reset falls between commands only, so no frame taken goes unanswered (log
entry 5), and it keeps the frames still waiting, which are then taken and answered (log entry 6). -/
def Obligations.RunAnswersEveryFrame : Prop :=
  ∀ s : State, ∃ t, Sys2Proof.core.run s.inbox.length s = .next t ∧ t.runOver ∧
    t.outbox.length = s.outbox.length + frameCount s.inbox

/-- Key material is confined: unless the next input is a PERMUTE that passes its checks, two states that differ only in
the key store give the same responses and states that again differ only there (10_state.md R32, R37, 20_memory.md
R65). -/
def Obligations.KeyMaterialIsConfined : Prop :=
  ∀ s s' : State, s.agreeButKey s' → ¬ s.permuteNext →
    ∃ t t', step s = .next t ∧ step s' = .next t' ∧ t.agreeButKey t' ∧ t.outbox = t'.outbox

/-- Only INIT, DISPOSE and reset change the key store, STRENGTH, VARIANT or LIFECYCLE (10_state.md R22, R23, R26,
70_reset_and_hazards.md R270), and while the engine is faulted only reset does. -/
def Obligations.OnlyInitDisposeResetChangeKeyOrMode : Prop :=
  ∀ s t : State, step s = .next t →
    ((∀ a, t.rkByte a = s.rkByte a) ∧ t.lifecycle = s.lifecycle ∧ t.strength = s.strength ∧
      t.variant = s.variant) ∨
    (∃ rest, s.inbox = .reset :: rest) ∨
    (s.fault = false ∧ ∃ F rest i, s.inbox = .frame F :: rest ∧ decode F = .instr i ∧
      ((∃ st v p, i = initInstr st v p) ∨ ∃ p, i = .dispose p))

/-- ACCEL_PRESENT is fixed for the life of the instance (10_state.md R33, 43_dispose_probe.md R191 (d)). -/
def Obligations.AccelPresentNeverChanges : Prop :=
  ∀ s t : State, step s = .next t → t.accelPresent = s.accelPresent

/-- Reset, then DISPOSE: every byte of the store is zero, whatever it held and whether or not the engine was faulted
(70_reset_and_hazards.md R276). The DISPOSE frame is already waiting when the reset is taken: that reset keeps it is
the model's choice, log entry 6. -/
def Obligations.ResetThenDisposeErases : Prop :=
  ∀ (s : State) (rest : List PortEvent), s.inbox = .reset :: .frame [0x03, 0x00, 0x00, 0x00] :: rest →
    ∃ t u, step s = .next t ∧ step t = .next u ∧ u.lifecycle = .disposed ∧ u.fault = false ∧
      ∀ a, a < 992 → u.rkByte a = 0

/-! ### The host's side (outside the engine: log entry 17) -/

/-- The nonce increment of 49_host_usage.md R214: as a number, as the carry loop over the bytes, and property 4 of the
document, `count` increments advancing the nonce by `count`. -/
def Obligations.NonceIncrementCarries : Prop :=
  (∀ N : Block, natOfBytes (inc N).list = (natOfBytes N.list + 1) % 2 ^ 256 ∧ (inc N).list = incBytes N.list) ∧
  ∀ (N : Block) (count : Nat), natOfBytes (inc^[count] N).list = (natOfBytes N.list + count) % 2 ^ 256

/-- The engine's part of property 1: a second Keyed engine with the same strength and round keys, whatever its
variant, restores the input from the output, both sides starting from one nonce (R213, R226, R227). The host's side is defined
beside the engine, and a response that is not OK ends the transform, by the model's choice: log entry 17. -/
def Obligations.CounterModeRoundTrips : Prop :=
  ∀ (s s' : State) (N : Block) (input : Frame), s.fault = false → s'.fault = false → s.lifecycle = .keyed →
    s'.lifecycle = .keyed → s.strength = s'.strength →
    (∀ a, a < materialLength s.strength → s.rkByte a = s'.rkByte a) →
      ∃ t t' out, ctrTransform s N input = some (t, inc^[(input.length + 31) / 32] N, out) ∧
        out.length = input.length ∧
        ctrTransform s' N out = some (t', inc^[(input.length + 31) / 32] N, input)
end

