-- ==== Sys2Proof/Laws/Bytes.lean ====
section
/-! SUPPORT. What the byte-string operations give at an index, equality of byte strings byte by byte, and
what the datapaths do before their first round. -/

namespace Sys2Proof

open Sys2Proof.Machine

theorem Bytes.get_eq_getElem {n : Nat} (A : Bytes n) (i : Nat) (h : i < n) :
    A.get i = A.list[i]'(by rw [A.len]; exact h) := by
  simp [Bytes.get, List.getD_eq_getElem?_getD, A.len, h]

/-- Two byte strings of one length are equal when every byte is. -/
theorem Bytes.ext_get {n : Nat} {A B : Bytes n} (h : ∀ i, i < n → A.get i = B.get i) : A = B := by
  cases A with | mk a ha => cases B with | mk b hb =>
  congr 1
  refine List.ext_getElem (by rw [ha, hb]) fun i h1 h2 => ?_
  have h3 := h i (ha ▸ h1)
  rwa [Bytes.get_eq_getElem _ _ (ha ▸ h1), Bytes.get_eq_getElem _ _ (ha ▸ h1)] at h3

@[simp] theorem Bytes.get_build (n : Nat) (f : Nat → Byte) (i : Nat) (h : i < n) :
    (Bytes.build n f).get i = f i := by
  rw [Bytes.get_eq_getElem _ _ h]; simp [Bytes.build]

@[simp] theorem Bytes.get_zeros (n i : Nat) : (Bytes.zeros n).get i = 0 := by
  simp only [Bytes.get, Bytes.zeros, Sys2Proof.zeros, List.getD_eq_getElem?_getD, List.getElem?_replicate]
  split <;> rfl

@[simp] theorem Bytes.get_xor {n : Nat} (A B : Bytes n) (i : Nat) (h : i < n) :
    (A.xor B).get i = A.get i ^^^ B.get i := by
  rw [Bytes.get_eq_getElem _ _ h, Bytes.get_eq_getElem _ _ h, Bytes.get_eq_getElem _ _ h]
  simp [Bytes.xor]

@[simp] theorem zeros_length (n : Nat) : (zeros n).length = n := by simp [zeros]

@[simp] theorem le32_length (v : Word32) : (le32 v).length = 4 := rfl

/-- A word is read back from its four bytes (20_memory.md R52). -/
theorem le32_ofLE32 (b0 b1 b2 b3 : Byte) : le32 (ofLE32 b0 b1 b2 b3) = [b0, b1, b2, b3] := by
  simp only [le32, ofLE32, List.cons.injEq, and_true]
  refine ⟨?_, ?_, ?_, ?_⟩ <;>
    (apply BitVec.eq_of_getLsbD_eq; intro i hi
     simp only [BitVec.getLsbD_extractLsb', BitVec.getLsbD_append]
     interval_cases i <;> simp)

namespace Machine

@[simp] theorem subBytes_get {n : Nat} (A : Bytes n) (i : Nat) (h : i < n) :
    (subBytes A).get i = sbox (A.get i) := by
  rw [Bytes.get_eq_getElem _ _ h, Bytes.get_eq_getElem _ _ h]; simp [subBytes]

@[simp] theorem rotateRows_get {n : Nat} (cols : Nat) (off : Nat → Nat) (A : Bytes n) (i : Nat) (h : i < n) :
    (rotateRows cols off A).get i = A.get (4 * ((i / 4 + off (i % 4)) % cols) + i % 4) := by
  simp [rotateRows, h]

/-- Column `c` of the mixed list is column `c` mixed (41_permute_portable.md R138). -/
theorem mixList_getD (A : Frame) (c r : Nat) (hr : r < 4) (h : 4 * c + 4 ≤ A.length) :
    (mixList A).getD (4 * c + r) 0 =
      mixByte (A.getD (4 * c) 0) (A.getD (4 * c + 1) 0) (A.getD (4 * c + 2) 0) (A.getD (4 * c + 3) 0) r := by
  induction c generalizing A with
  | zero =>
    match A, h with
    | a0 :: a1 :: a2 :: a3 :: A, _ => interval_cases r <;> simp [mixList]
  | succ c ih =>
    match A, h with
    | a0 :: a1 :: a2 :: a3 :: A, h =>
      have := ih A (by simp at h; omega)
      have e : ∀ k, 4 * (c + 1) + k = (4 * c + k) + 4 := by intro k; omega
      have e0 : 4 * (c + 1) = 4 * c + 4 := by omega
      simp only [e]
      rw [e0]
      simpa [mixList] using this

theorem mixColumns_get {n : Nat} (A : Bytes n) (c r : Nat) (hr : r < 4) (h : 4 * c + 4 ≤ n) :
    (mixColumns A).get (4 * c + r) =
      mixByte (A.get (4 * c)) (A.get (4 * c + 1)) (A.get (4 * c + 2)) (A.get (4 * c + 3)) r :=
  mixList_getD A.list c r hr (by rw [A.len]; exact h)

@[simp] theorem lane0_get (W : Block) (j : Nat) (h : j < 16) : (lane0 W).get j = W.get j := by
  rw [Bytes.get_eq_getElem _ _ h, Bytes.get_eq_getElem _ _ (by omega)]; simp [lane0]

@[simp] theorem lane1_get (W : Block) (j : Nat) (h : j < 16) : (lane1 W).get j = W.get (16 + j) := by
  rw [Bytes.get_eq_getElem _ _ h, Bytes.get_eq_getElem _ _ (by omega)]; simp [lane1]

@[simp] theorem lane0_joinLanes (L0 L1 : Lane) : lane0 (joinLanes L0 L1) = L0 := by
  cases L0 with | mk l0 h0 => simp [lane0, joinLanes, ← h0]

@[simp] theorem lane1_joinLanes (L0 L1 : Lane) : lane1 (joinLanes L0 L1) = L1 := by
  cases L0 with | mk l0 h0 => simp [lane1, joinLanes, ← h0]

@[simp] theorem joinLanes_lanes (W : Block) : joinLanes (lane0 W) (lane1 W) = W := by
  cases W with | mk w hw => simp [lane0, lane1, joinLanes]

/-- The prefetch pass writes no state (41_permute_portable.md R143). -/
@[simp] theorem prefetch_eq (d : Datapath) : prefetch d = d := rfl

@[simp] theorem loadBlock_eq (X : Block) (d : Datapath) : loadBlock X d = { w := X, rnd := 0 } := rfl

@[simp] theorem firstKeyAddition_w (k : Nat → Block) (d : Datapath) :
    (firstKeyAddition k d).w = addRoundKey k d.w 0 := rfl

@[simp] theorem firstKeyAddition_rnd (k : Nat → Block) (d : Datapath) : (firstKeyAddition k d).rnd = d.rnd := rfl

/-- What `PermPortable` computes from the block, the prefetch pass and the loading done (R142). -/
theorem permPortable_eq (k : Nat → Block) (n : Nat) (X : Block) :
    permPortable k n X =
      portableLastRound k (repeatRound (portableRound k) (n - 1) { w := addRoundKey k X 0, rnd := 0 }) := rfl

end Machine

end Sys2Proof
end

