-- ==== Sys2Proof/Laws/State.lean ====
section
/-! SUPPORT. One lemma per field per update of State, each true by unfolding, so that no later proof unfolds a record
update. -/

namespace Sys2Proof.Machine

/-! ### `respond` -/

@[simp] theorem State.respond_lifecycle (s : State) (c : Byte) (p : Frame) :
    (s.respond c p).lifecycle = s.lifecycle := rfl
@[simp] theorem State.respond_strength (s : State) (c : Byte) (p : Frame) :
    (s.respond c p).strength = s.strength := rfl
@[simp] theorem State.respond_variant (s : State) (c : Byte) (p : Frame) : (s.respond c p).variant = s.variant := rfl
@[simp] theorem State.respond_fault (s : State) (c : Byte) (p : Frame) : (s.respond c p).fault = s.fault := rfl
@[simp] theorem State.respond_cause (s : State) (c : Byte) (p : Frame) : (s.respond c p).cause = s.cause := rfl
@[simp] theorem State.respond_rk (s : State) (c : Byte) (p : Frame) : (s.respond c p).rk = s.rk := rfl
@[simp] theorem State.respond_w (s : State) (c : Byte) (p : Frame) : (s.respond c p).w = s.w := rfl
@[simp] theorem State.respond_rnd (s : State) (c : Byte) (p : Frame) : (s.respond c p).rnd = s.rnd := rfl
@[simp] theorem State.respond_accelPresent (s : State) (c : Byte) (p : Frame) :
    (s.respond c p).accelPresent = s.accelPresent := rfl
@[simp] theorem State.respond_resetHistory (s : State) (c : Byte) (p : Frame) :
    (s.respond c p).resetHistory = s.resetHistory := rfl
@[simp] theorem State.respond_inbox (s : State) (c : Byte) (p : Frame) : (s.respond c p).inbox = s.inbox := rfl
@[simp] theorem State.respond_outbox (s : State) (c : Byte) (p : Frame) :
    (s.respond c p).outbox = s.outbox ++ [responseFrame c p] := rfl

/-! ### `raise` -/

@[simp] theorem State.raise_lifecycle (s : State) (c : Cause) : (s.raise c).lifecycle = s.lifecycle := rfl
@[simp] theorem State.raise_strength (s : State) (c : Cause) : (s.raise c).strength = s.strength := rfl
@[simp] theorem State.raise_variant (s : State) (c : Cause) : (s.raise c).variant = s.variant := rfl
@[simp] theorem State.raise_fault (s : State) (c : Cause) : (s.raise c).fault = true := rfl
@[simp] theorem State.raise_cause (s : State) (c : Cause) : (s.raise c).cause = c.code := rfl
@[simp] theorem State.raise_rk (s : State) (c : Cause) : (s.raise c).rk = s.rk := rfl
@[simp] theorem State.raise_w (s : State) (c : Cause) : (s.raise c).w = s.w := rfl
@[simp] theorem State.raise_rnd (s : State) (c : Cause) : (s.raise c).rnd = s.rnd := rfl
@[simp] theorem State.raise_accelPresent (s : State) (c : Cause) : (s.raise c).accelPresent = s.accelPresent := rfl
@[simp] theorem State.raise_resetHistory (s : State) (c : Cause) : (s.raise c).resetHistory = s.resetHistory := rfl
@[simp] theorem State.raise_inbox (s : State) (c : Cause) : (s.raise c).inbox = s.inbox := rfl
@[simp] theorem State.raise_outbox (s : State) (c : Cause) :
    (s.raise c).outbox = s.outbox ++ [responseFrame c.code []] := rfl

/-! ### `applyReset` -/

@[simp] theorem State.applyReset_lifecycle (s : State) : s.applyReset.lifecycle = .created := rfl
@[simp] theorem State.applyReset_strength (s : State) : s.applyReset.strength = .strength256 := rfl
@[simp] theorem State.applyReset_variant (s : State) : s.applyReset.variant = .portable := rfl
@[simp] theorem State.applyReset_fault (s : State) : s.applyReset.fault = false := rfl
@[simp] theorem State.applyReset_cause (s : State) : s.applyReset.cause = 0 := rfl
@[simp] theorem State.applyReset_rk (s : State) : s.applyReset.rk = [] := rfl
@[simp] theorem State.applyReset_w (s : State) : s.applyReset.w = Bytes.zeros 32 := rfl
@[simp] theorem State.applyReset_rnd (s : State) : s.applyReset.rnd = 0 := rfl
@[simp] theorem State.applyReset_accelPresent (s : State) : s.applyReset.accelPresent = s.accelPresent := rfl
@[simp] theorem State.applyReset_resetHistory (s : State) : s.applyReset.resetHistory = s.rk :: s.resetHistory := rfl
@[simp] theorem State.applyReset_inbox (s : State) : s.applyReset.inbox = s.inbox := rfl
@[simp] theorem State.applyReset_outbox (s : State) : s.applyReset.outbox = s.outbox := rfl

/-! ### `wipeKey` -/

@[simp] theorem State.wipeKey_lifecycle (s : State) : s.wipeKey.lifecycle = s.lifecycle := rfl
@[simp] theorem State.wipeKey_strength (s : State) : s.wipeKey.strength = s.strength := rfl
@[simp] theorem State.wipeKey_variant (s : State) : s.wipeKey.variant = s.variant := rfl
@[simp] theorem State.wipeKey_fault (s : State) : s.wipeKey.fault = s.fault := rfl
@[simp] theorem State.wipeKey_cause (s : State) : s.wipeKey.cause = s.cause := rfl
@[simp] theorem State.wipeKey_rk (s : State) : s.wipeKey.rk = Memory.writeBytes s.rk 0 (zeros rkCapacity) := rfl
@[simp] theorem State.wipeKey_w (s : State) : s.wipeKey.w = s.w := rfl
@[simp] theorem State.wipeKey_rnd (s : State) : s.wipeKey.rnd = s.rnd := rfl
@[simp] theorem State.wipeKey_accelPresent (s : State) : s.wipeKey.accelPresent = s.accelPresent := rfl
@[simp] theorem State.wipeKey_resetHistory (s : State) : s.wipeKey.resetHistory = s.resetHistory := rfl
@[simp] theorem State.wipeKey_inbox (s : State) : s.wipeKey.inbox = s.inbox := rfl
@[simp] theorem State.wipeKey_outbox (s : State) : s.wipeKey.outbox = s.outbox := rfl

/-! ### `loadKey` -/

@[simp] theorem State.loadKey_lifecycle (s : State) (p : Frame) : (s.loadKey p).lifecycle = s.lifecycle := rfl
@[simp] theorem State.loadKey_strength (s : State) (p : Frame) : (s.loadKey p).strength = s.strength := rfl
@[simp] theorem State.loadKey_variant (s : State) (p : Frame) : (s.loadKey p).variant = s.variant := rfl
@[simp] theorem State.loadKey_fault (s : State) (p : Frame) : (s.loadKey p).fault = s.fault := rfl
@[simp] theorem State.loadKey_cause (s : State) (p : Frame) : (s.loadKey p).cause = s.cause := rfl
@[simp] theorem State.loadKey_rk (s : State) (p : Frame) :
    (s.loadKey p).rk = Memory.writeBytes s.wipeKey.rk 0 p := rfl
@[simp] theorem State.loadKey_w (s : State) (p : Frame) : (s.loadKey p).w = s.w := rfl
@[simp] theorem State.loadKey_rnd (s : State) (p : Frame) : (s.loadKey p).rnd = s.rnd := rfl
@[simp] theorem State.loadKey_accelPresent (s : State) (p : Frame) :
    (s.loadKey p).accelPresent = s.accelPresent := rfl
@[simp] theorem State.loadKey_resetHistory (s : State) (p : Frame) :
    (s.loadKey p).resetHistory = s.resetHistory := rfl
@[simp] theorem State.loadKey_inbox (s : State) (p : Frame) : (s.loadKey p).inbox = s.inbox := rfl
@[simp] theorem State.loadKey_outbox (s : State) (p : Frame) : (s.loadKey p).outbox = s.outbox := rfl

/-! ### `setMode` -/

@[simp] theorem State.setMode_lifecycle (s : State) (l : Lifecycle) (st : Strength) (v : Variant) :
    (s.setMode l st v).lifecycle = l := rfl
@[simp] theorem State.setMode_strength (s : State) (l : Lifecycle) (st : Strength) (v : Variant) :
    (s.setMode l st v).strength = st := rfl
@[simp] theorem State.setMode_variant (s : State) (l : Lifecycle) (st : Strength) (v : Variant) :
    (s.setMode l st v).variant = v := rfl
@[simp] theorem State.setMode_fault (s : State) (l : Lifecycle) (st : Strength) (v : Variant) :
    (s.setMode l st v).fault = s.fault := rfl
@[simp] theorem State.setMode_cause (s : State) (l : Lifecycle) (st : Strength) (v : Variant) :
    (s.setMode l st v).cause = s.cause := rfl
@[simp] theorem State.setMode_rk (s : State) (l : Lifecycle) (st : Strength) (v : Variant) :
    (s.setMode l st v).rk = s.rk := rfl
@[simp] theorem State.setMode_w (s : State) (l : Lifecycle) (st : Strength) (v : Variant) :
    (s.setMode l st v).w = s.w := rfl
@[simp] theorem State.setMode_rnd (s : State) (l : Lifecycle) (st : Strength) (v : Variant) :
    (s.setMode l st v).rnd = s.rnd := rfl
@[simp] theorem State.setMode_accelPresent (s : State) (l : Lifecycle) (st : Strength) (v : Variant) :
    (s.setMode l st v).accelPresent = s.accelPresent := rfl
@[simp] theorem State.setMode_resetHistory (s : State) (l : Lifecycle) (st : Strength) (v : Variant) :
    (s.setMode l st v).resetHistory = s.resetHistory := rfl
@[simp] theorem State.setMode_inbox (s : State) (l : Lifecycle) (st : Strength) (v : Variant) :
    (s.setMode l st v).inbox = s.inbox := rfl
@[simp] theorem State.setMode_outbox (s : State) (l : Lifecycle) (st : Strength) (v : Variant) :
    (s.setMode l st v).outbox = s.outbox := rfl

/-! ### `setWorking` -/

@[simp] theorem State.setWorking_lifecycle (s : State) (x : Block) (r : Nat) :
    (s.setWorking x r).lifecycle = s.lifecycle := rfl
@[simp] theorem State.setWorking_strength (s : State) (x : Block) (r : Nat) :
    (s.setWorking x r).strength = s.strength := rfl
@[simp] theorem State.setWorking_variant (s : State) (x : Block) (r : Nat) :
    (s.setWorking x r).variant = s.variant := rfl
@[simp] theorem State.setWorking_fault (s : State) (x : Block) (r : Nat) : (s.setWorking x r).fault = s.fault := rfl
@[simp] theorem State.setWorking_cause (s : State) (x : Block) (r : Nat) : (s.setWorking x r).cause = s.cause := rfl
@[simp] theorem State.setWorking_rk (s : State) (x : Block) (r : Nat) : (s.setWorking x r).rk = s.rk := rfl
@[simp] theorem State.setWorking_w (s : State) (x : Block) (r : Nat) : (s.setWorking x r).w = x := rfl
@[simp] theorem State.setWorking_rnd (s : State) (x : Block) (r : Nat) :
    (s.setWorking x r).rnd = BitVec.ofNat 5 r := rfl
@[simp] theorem State.setWorking_accelPresent (s : State) (x : Block) (r : Nat) :
    (s.setWorking x r).accelPresent = s.accelPresent := rfl
@[simp] theorem State.setWorking_resetHistory (s : State) (x : Block) (r : Nat) :
    (s.setWorking x r).resetHistory = s.resetHistory := rfl
@[simp] theorem State.setWorking_inbox (s : State) (x : Block) (r : Nat) : (s.setWorking x r).inbox = s.inbox := rfl
@[simp] theorem State.setWorking_outbox (s : State) (x : Block) (r : Nat) :
    (s.setWorking x r).outbox = s.outbox := rfl

/-! ### `clearWorking` -/

@[simp] theorem State.clearWorking_lifecycle (s : State) : s.clearWorking.lifecycle = s.lifecycle := rfl
@[simp] theorem State.clearWorking_strength (s : State) : s.clearWorking.strength = s.strength := rfl
@[simp] theorem State.clearWorking_variant (s : State) : s.clearWorking.variant = s.variant := rfl
@[simp] theorem State.clearWorking_fault (s : State) : s.clearWorking.fault = s.fault := rfl
@[simp] theorem State.clearWorking_cause (s : State) : s.clearWorking.cause = s.cause := rfl
@[simp] theorem State.clearWorking_rk (s : State) : s.clearWorking.rk = s.rk := rfl
@[simp] theorem State.clearWorking_w (s : State) : s.clearWorking.w = Bytes.zeros 32 := rfl
@[simp] theorem State.clearWorking_rnd (s : State) : s.clearWorking.rnd = 0 := rfl
@[simp] theorem State.clearWorking_accelPresent (s : State) : s.clearWorking.accelPresent = s.accelPresent := rfl
@[simp] theorem State.clearWorking_resetHistory (s : State) : s.clearWorking.resetHistory = s.resetHistory := rfl
@[simp] theorem State.clearWorking_inbox (s : State) : s.clearWorking.inbox = s.inbox := rfl
@[simp] theorem State.clearWorking_outbox (s : State) : s.clearWorking.outbox = s.outbox := rfl

/-! ### `setInbox` -/

@[simp] theorem State.setInbox_lifecycle (s : State) (q : List PortEvent) :
    (s.setInbox q).lifecycle = s.lifecycle := rfl
@[simp] theorem State.setInbox_strength (s : State) (q : List PortEvent) : (s.setInbox q).strength = s.strength := rfl
@[simp] theorem State.setInbox_variant (s : State) (q : List PortEvent) : (s.setInbox q).variant = s.variant := rfl
@[simp] theorem State.setInbox_fault (s : State) (q : List PortEvent) : (s.setInbox q).fault = s.fault := rfl
@[simp] theorem State.setInbox_cause (s : State) (q : List PortEvent) : (s.setInbox q).cause = s.cause := rfl
@[simp] theorem State.setInbox_rk (s : State) (q : List PortEvent) : (s.setInbox q).rk = s.rk := rfl
@[simp] theorem State.setInbox_w (s : State) (q : List PortEvent) : (s.setInbox q).w = s.w := rfl
@[simp] theorem State.setInbox_rnd (s : State) (q : List PortEvent) : (s.setInbox q).rnd = s.rnd := rfl
@[simp] theorem State.setInbox_accelPresent (s : State) (q : List PortEvent) :
    (s.setInbox q).accelPresent = s.accelPresent := rfl
@[simp] theorem State.setInbox_resetHistory (s : State) (q : List PortEvent) :
    (s.setInbox q).resetHistory = s.resetHistory := rfl
@[simp] theorem State.setInbox_inbox (s : State) (q : List PortEvent) : (s.setInbox q).inbox = q := rfl
@[simp] theorem State.setInbox_outbox (s : State) (q : List PortEvent) : (s.setInbox q).outbox = s.outbox := rfl

/-! ### The engine and the port apart -/

theorem State.sameEngine_respond_setInbox (s : State) (q : List PortEvent) (c : Byte) (p : Frame) :
    (s.setInbox q).respond c p =
      { s with inbox := q, outbox := s.outbox ++ [responseFrame c p] } := rfl

/-- The fault entry, as one record update (60_exceptions.md R242). -/
theorem State.raise_eq (s : State) (c : Cause) :
    s.raise c =
      { s with fault := true, cause := c.code, outbox := s.outbox ++ [responseFrame c.code []] } := rfl

end Sys2Proof.Machine
end

