-- ==== Sys2Proof/Laws/Memory.lean ====
section
/-! SUPPORT. The round-key store: every operation keeps the canonical form, and what a byte reads as after a write
(20_memory.md R50, R53). -/

namespace Sys2Proof.Machine

theorem Memory.skipTo_append (m₁ m₂ : Memory) (a : Nat) (h : ∀ c ∈ m₁, c.1 < a) :
    Memory.skipTo (m₁ ++ m₂) a = Memory.skipTo m₂ a := by
  induction m₁ with
  | nil => rfl
  | cons c m₁ ih =>
    obtain ⟨k, v⟩ := c
    have hk : k < a := h (k, v) (by simp)
    simp only [List.cons_append, Memory.skipTo, hk, if_true]
    exact ih fun c hc => h c (by simp [hc])

theorem Memory.wfFrom_mono {m : Memory} {lo lo' : Nat} (h : lo' ≤ lo) (hm : Memory.wfFrom lo m = true) :
    Memory.wfFrom lo' m = true := by
  cases m with
  | nil => rfl
  | cons c m =>
    obtain ⟨k, v⟩ := c
    simp only [Memory.wfFrom, Bool.and_eq_true, decide_eq_true_eq] at hm ⊢
    exact ⟨⟨by omega, hm.1.2⟩, hm.2⟩

theorem Memory.wfFrom_filter (p : Host.Cell → Bool) {m : Memory} {lo : Nat} (hm : Memory.wfFrom lo m = true) :
    Memory.wfFrom lo (m.filter p) = true := by
  induction m generalizing lo with
  | nil => rfl
  | cons c m ih =>
    obtain ⟨k, v⟩ := c
    simp only [Memory.wfFrom, Bool.and_eq_true, decide_eq_true_eq] at hm
    by_cases hp : p (k, v)
    · simp only [List.filter_cons, hp, if_true, Memory.wfFrom, Bool.and_eq_true, decide_eq_true_eq]
      exact ⟨hm.1, ih hm.2⟩
    · simp only [List.filter_cons, hp]
      exact Memory.wfFrom_mono (by omega) (ih hm.2)

/-- Two lists in canonical form joined at an address between them. -/
theorem Memory.wfFrom_append {m₁ m₂ : Memory} {lo mid : Nat} (h₁ : Memory.wfFrom lo m₁ = true)
    (hlt : ∀ c ∈ m₁, c.1 < mid) (hlo : lo ≤ mid) (h₂ : Memory.wfFrom mid m₂ = true) :
    Memory.wfFrom lo (m₁ ++ m₂) = true := by
  induction m₁ generalizing lo with
  | nil => exact Memory.wfFrom_mono hlo h₂
  | cons c m₁ ih =>
    obtain ⟨k, v⟩ := c
    simp only [List.cons_append, Memory.wfFrom, Bool.and_eq_true, decide_eq_true_eq] at h₁ ⊢
    have hk : k < mid := hlt (k, v) (by simp)
    exact ⟨h₁.1, ih h₁.2 (fun c hc => hlt c (by simp [hc])) (by omega)⟩

theorem Memory.wfFrom_cellsFrom (a : Nat) (B : Frame) (h : a + B.length ≤ rkCapacity) :
    Memory.wfFrom a (Memory.cellsFrom a B) = true := by
  induction B generalizing a with
  | nil => rfl
  | cons v B ih =>
    simp only [List.length_cons] at h
    simp only [Memory.cellsFrom, Memory.wfFrom, Bool.and_eq_true, decide_eq_true_eq]
    exact ⟨⟨Nat.le_refl _, by omega⟩, ih (a + 1) (by omega)⟩

theorem Memory.lt_of_mem_cellsFrom (a : Nat) (B : Frame) : ∀ c ∈ Memory.cellsFrom a B, c.1 < a + B.length := by
  induction B generalizing a with
  | nil => simp [Memory.cellsFrom]
  | cons v B ih =>
    intro c hc
    simp only [Memory.cellsFrom, List.mem_cons] at hc
    simp only [List.length_cons]
    rcases hc with rfl | hc
    · simp
    · have := ih (a + 1) c hc; omega

theorem Memory.wfFrom_filter_ge {m : Memory} {lo b : Nat} (hm : Memory.wfFrom lo m = true) :
    Memory.wfFrom b (m.filter fun c => decide (b ≤ c.1)) = true := by
  induction m generalizing lo with
  | nil => rfl
  | cons c m ih =>
    obtain ⟨k, v⟩ := c
    simp only [Memory.wfFrom, Bool.and_eq_true, decide_eq_true_eq] at hm
    by_cases hb : b ≤ k
    · simp only [List.filter_cons, hb, decide_true, if_true, Memory.wfFrom, Bool.and_eq_true, decide_eq_true_eq]
      exact ⟨⟨trivial, hm.1.2⟩, Memory.wfFrom_filter _ hm.2⟩
    · simp only [List.filter_cons, hb, decide_false]
      exact ih hm.2

/-- A range write inside the store keeps the canonical form. -/
theorem Memory.wf_writeBytes {m : Memory} (a : Nat) (B : Frame) (hm : Memory.wf m = true)
    (h : a + B.length ≤ rkCapacity) : Memory.wf (Memory.writeBytes m a B) = true := by
  unfold Memory.wf Memory.writeBytes
  rw [List.append_assoc]
  refine Memory.wfFrom_append (mid := a) (Memory.wfFrom_filter _ hm) ?_ (by omega) ?_
  · intro c hc; simp only [List.mem_filter, decide_eq_true_eq] at hc; exact hc.2
  · exact Memory.wfFrom_append (Memory.wfFrom_cellsFrom a B h) (Memory.lt_of_mem_cellsFrom a B) (by omega)
      (Memory.wfFrom_filter_ge hm)

/-- A byte write inside the store keeps the canonical form. -/
theorem Memory.wf_write {m : Memory} (a : Nat) (v : Byte) (hm : Memory.wf m = true) (h : a < rkCapacity) :
    Memory.wf (Memory.write m a v) = true :=
  Memory.wf_writeBytes a [v] hm (by simpa using h)

/-- The store at reset is in canonical form. -/
theorem Memory.wf_reset : Memory.wf State.reset.rk = true := rfl

/-- The store after the reset input is in canonical form. -/
theorem Memory.wf_applyReset (s : State) : Memory.wf s.applyReset.rk = true := rfl

theorem State.wf_wipeKey {s : State} (h : Memory.wf s.rk = true) : Memory.wf s.wipeKey.rk = true :=
  Memory.wf_writeBytes 0 _ h (by simp)

theorem State.wf_loadKey {s : State} {p : Frame} (h : Memory.wf s.rk = true) (hp : p.length ≤ rkCapacity) :
    Memory.wf (s.loadKey p).rk = true :=
  Memory.wf_writeBytes 0 _ (State.wf_wipeKey h) (by simpa using hp)

/-! ### Reading -/

theorem Memory.read_append_below (m₁ m₂ : Memory) (a : Nat) (h : ∀ c ∈ m₁, c.1 < a) :
    Memory.read (m₁ ++ m₂) a = Memory.read m₂ a := by
  unfold Memory.read; rw [Memory.skipTo_append _ _ _ h]

/-- What stands above the address reached does not matter once the address, or a higher one, stands before it. -/
theorem Memory.read_append_reached (m₁ m₂ : Memory) (a : Nat) (h : ∃ c ∈ m₁, a ≤ c.1) :
    Memory.read (m₁ ++ m₂) a = Memory.read m₁ a := by
  induction m₁ with
  | nil => simp at h
  | cons c m₁ ih =>
    obtain ⟨k, v⟩ := c
    by_cases hk : k < a
    · have h' : ∃ c ∈ m₁, a ≤ c.1 := by
        obtain ⟨c, hc, hle⟩ := h
        simp only [List.mem_cons] at hc
        rcases hc with rfl | hc
        · simp only at hle; omega
        · exact ⟨c, hc, hle⟩
      simpa [Memory.read, Memory.skipTo, hk] using ih h'
    · simp [Memory.read, Memory.skipTo, hk, Memory.headAt]

theorem Memory.read_cellsFrom (a : Nat) (B : Frame) (i : Nat) (h : i < B.length) :
    Memory.read (Memory.cellsFrom a B) (a + i) = some (B.getD i 0) := by
  induction B generalizing a i with
  | nil => simp at h
  | cons v B ih =>
    cases i with
    | zero => simp [Memory.cellsFrom, Memory.read, Memory.skipTo, Memory.headAt]
    | succ i =>
      have := ih (a + 1) i (by simpa using h)
      have e : a + 1 + i = a + (i + 1) := by omega
      rw [e] at this
      simpa [Memory.cellsFrom, Memory.read, Memory.skipTo] using this

theorem Memory.exists_mem_cellsFrom (a : Nat) (B : Frame) (i : Nat) (h : i < B.length) :
    ∃ c ∈ Memory.cellsFrom a B, a + i ≤ c.1 := by
  induction B generalizing a i with
  | nil => simp at h
  | cons v B ih =>
    cases i with
    | zero => exact ⟨(a, v), by simp [Memory.cellsFrom], Nat.le_refl _⟩
    | succ i =>
      obtain ⟨c, hc, hle⟩ := ih (a + 1) i (by simpa using h)
      exact ⟨c, by simp [Memory.cellsFrom, hc], by omega⟩

/-- Inside the range written, the byte written is read (20_memory.md R53). -/
theorem Memory.read_writeBytes_inside (m : Memory) (a : Nat) (B : Frame) (i : Nat) (h : i < B.length) :
    Memory.read (Memory.writeBytes m a B) (a + i) = some (B.getD i 0) := by
  unfold Memory.writeBytes
  rw [List.append_assoc, Memory.read_append_below, Memory.read_append_reached _ _ _
    (Memory.exists_mem_cellsFrom a B i h), Memory.read_cellsFrom a B i h]
  intro c hc; simp only [List.mem_filter, decide_eq_true_eq] at hc; omega

/-- Keeping the cells from an address on does not change what is read from that address on, in canonical form. -/
theorem Memory.read_filter_ge (m : Memory) (lo b a : Nat) (hm : Memory.wfFrom lo m = true) (h : b ≤ a) :
    Memory.read (m.filter fun c => decide (b ≤ c.1)) a = Memory.read m a := by
  induction m generalizing lo with
  | nil => rfl
  | cons c m ih =>
    obtain ⟨k, v⟩ := c
    simp only [Memory.wfFrom, Bool.and_eq_true, decide_eq_true_eq] at hm
    have ih := ih _ hm.2
    by_cases hk : b ≤ k
    · by_cases hka : k < a
      · simpa [List.filter_cons, hk, Memory.read, Memory.skipTo, hka] using ih
      · simp [hk, Memory.read, Memory.skipTo, hka, Memory.headAt]
    · have hka : k < a := by omega
      simpa [List.filter_cons, hk, Memory.read, Memory.skipTo, hka] using ih

/-- Past the range of a write at address 0, what is kept above the range is read. -/
theorem Memory.read_writeBytes_above (m : Memory) (B : Frame) (a : Nat) (h : B.length ≤ a) :
    Memory.read (Memory.writeBytes m 0 B) a =
      Memory.read (m.filter fun c => decide (B.length ≤ c.1)) a := by
  unfold Memory.writeBytes
  rw [List.append_assoc, Memory.read_append_below, Memory.read_append_below]
  · simp
  · intro c hc; have := Memory.lt_of_mem_cellsFrom 0 B c hc; omega
  · intro c hc; simp only [List.mem_filter, decide_eq_true_eq] at hc; omega

/-- DISPOSE's wipe: every byte of the store is zero (43_dispose_probe.md R190). -/
theorem State.read_wipeKey (s : State) (a : Nat) (h : a < rkCapacity) :
    Memory.read s.wipeKey.rk a = some 0 := by
  have := Memory.read_writeBytes_inside s.rk 0 (zeros rkCapacity) a (by simpa using h)
  simp only [Nat.zero_add] at this
  rw [State.wipeKey_rk, this]
  simp [zeros, List.getD_eq_getElem?_getD, h]

/-- INIT's load: the payload, then zeros, whatever the store held (40_init_keyload.md R110, R112). -/
theorem State.read_loadKey (s : State) (p : Frame) (a : Nat) (h : a < rkCapacity) :
    Memory.read (s.loadKey p).rk a = some (p.getD a 0) := by
  rw [State.loadKey_rk]
  by_cases ha : a < p.length
  · have := Memory.read_writeBytes_inside s.wipeKey.rk 0 p a ha
    rwa [Nat.zero_add] at this
  · have hle : p.length ≤ a := by omega
    have hz : (zeros rkCapacity).length = rkCapacity := zeros_length _
    have hwf := Memory.wfFrom_cellsFrom 0 (zeros rkCapacity) (by omega)
    have hread : Memory.read (Memory.cellsFrom 0 (zeros rkCapacity)) a = some 0 := by
      have := Memory.read_cellsFrom 0 (zeros rkCapacity) a (by omega)
      rw [Nat.zero_add] at this
      rw [this]; simp [zeros, List.getD_eq_getElem?_getD, h]
    have hmem := Memory.exists_mem_cellsFrom 0 (zeros rkCapacity) a (by omega)
    rw [Memory.read_writeBytes_above _ _ _ hle, State.wipeKey_rk]
    unfold Memory.writeBytes
    rw [List.filter_append, List.filter_append, List.append_assoc, Memory.read_append_below,
      Memory.read_append_reached, Memory.read_filter_ge _ 0 _ _ hwf hle, hread]
    · simp [List.getD_eq_getElem?_getD, List.getElem?_eq_none hle]
    · obtain ⟨c, hc, hac⟩ := hmem
      exact ⟨c, by simp only [List.mem_filter, decide_eq_true_eq]; exact ⟨hc, by omega⟩, by omega⟩
    · intro c hc; simp only [List.mem_filter, decide_eq_true_eq] at hc; omega

theorem State.rkByte_of_read {s : State} {a : Nat} {v : Byte} (h : Memory.read s.rk a = some v) :
    s.rkByte a = v := by simp [State.rkByte, State.orReset, h]

/-! ### Round keys -/

theorem Memory.skipTo_skipTo (m : Memory) {a b : Nat} (h : a ≤ b) :
    Memory.skipTo (Memory.skipTo m a) b = Memory.skipTo m b := by
  induction m with
  | nil => rfl
  | cons c m ih =>
    obtain ⟨k, v⟩ := c
    by_cases hk : k < a
    · have hkb : k < b := by omega
      simp [Memory.skipTo, hk, hkb, ih]
    · simp [Memory.skipTo, hk]

theorem Memory.readBytes_getElem? (m : Memory) (a count i : Nat) (h : i < count) :
    (Memory.readBytes m a count)[i]? = some (Memory.read m (a + i)) := by
  induction count generalizing m a i with
  | zero => omega
  | succ count ih =>
    cases i with
    | zero => rfl
    | succ i =>
      have := ih (Memory.skipTo m a) (a + 1) i (by omega)
      have e : a + 1 + i = a + (i + 1) := by omega
      simp only [Memory.readBytes, List.getElem?_cons_succ, this, e]
      simp [Memory.read, Memory.skipTo_skipTo m (show a ≤ a + (i + 1) by omega)]

theorem State.orResetFrom_getElem? (s : State) (a : Nat) (os : List (Option Byte)) (i : Nat) :
    (s.orResetFrom a os)[i]? = os[i]?.map (s.orReset (a + i)) := by
  induction os generalizing a i with
  | nil => rfl
  | cons o os ih =>
    cases i with
    | zero => rfl
    | succ i => simp [State.orResetFrom, ih, show a + 1 + i = a + (i + 1) by omega]

/-- Byte `i` of round key `r` is `RK[32r + i]` (20_memory.md R53, 41_permute_portable.md R139). -/
@[simp] theorem State.roundKey_get (s : State) (r i : Nat) (h : i < 32) :
    (s.roundKey r).get i = s.rkByte (32 * r + i) := by
  simp [Bytes.get, State.roundKey, List.getD_eq_getElem?_getD, State.orResetFrom_getElem?,
    Memory.readBytes_getElem? _ _ _ _ h, State.rkByte]

/-- Two states whose stores hold the same 32 bytes have the same round key. -/
theorem State.roundKey_congr {s t : State} {r : Nat}
    (h : ∀ i, i < 32 → s.rkByte (32 * r + i) = t.rkByte (32 * r + i)) : s.roundKey r = t.roundKey r :=
  Bytes.ext_get fun i hi => by simp [hi, h i hi]

end Sys2Proof.Machine
end

