-- ==== Sys2Proof/Laws/Commands.lean ====
section
/-! SUPPORT. What each command can do, said once (60_exceptions.md R244): the provers cite these, not the meanings. -/

namespace Sys2Proof.Machine

theorem State.serve_faulted {s : State} (body : State → State) (h : s.fault = true) :
    s.serve body = s.respond engineFaultedCode [] := by simp [State.serve, h]

theorem State.serve_serving {s : State} (body : State → State) (h : s.fault = false) :
    s.serve body = body s := by simp [State.serve, h]

/-- A response frame is the code, three zero bytes, the payload (30_encoding.md R84). -/
theorem responseFrame_eq (c : Byte) (p : Frame) : responseFrame c p = c :: 0x00 :: 0x00 :: 0x00 :: p := by
  have h : ∀ c : Byte, le32 (c.setWidth 32) = [c, 0x00, 0x00, 0x00] := by decide
  simp [responseFrame, h]

theorem isKeyMaterial_iff (st : Strength) (p : Frame) : isKeyMaterial st p = true ↔ p.length = rkBytes st := by
  simp [isKeyMaterial]

theorem rkBytes_le (st : Strength) : rkBytes st ≤ rkCapacity := by cases st <;> decide

theorem blockOperand_list (X : Block) : blockOperand X.list = some X := by
  simp [blockOperand, X.len]

theorem blockOperand_eq_none (p : Frame) : blockOperand p = none ↔ p.length ≠ 32 := by
  by_cases h : p.length = 32 <;> simp [blockOperand, h]

theorem blockOperand_eq_some {p : Frame} {X : Block} (h : blockOperand p = some X) : p = X.list := by
  by_cases hp : p.length = 32
  · simp only [blockOperand, hp, dif_pos, Option.some.injEq] at h; rw [← h]
  · simp [blockOperand, hp] at h

/-- Everything an INIT can do. -/
theorem initCommand_cases (st : Strength) (v : VSel) (p : Frame) (s : State) :
    (s.fault = true ∧ initCommand st v p s = s.respond engineFaultedCode []) ∨
    (s.fault = false ∧ p.length ≠ rkBytes st ∧ initCommand st v p s = s.raise .badLength) ∨
    (s.fault = false ∧ p.length = rkBytes st ∧ v = .accelerated ∧ s.accelPresent = false ∧
      initCommand st v p s = s.raise .variantUnavailable) ∨
    (s.fault = false ∧ p.length = rkBytes st ∧ (v = .accelerated → s.accelPresent = true) ∧
      initCommand st v p s = s.keyLoaded st v p) := by
  unfold initCommand
  by_cases hf : s.fault = true
  · exact .inl ⟨hf, State.serve_faulted _ hf⟩
  have hf : s.fault = false := by simpa using hf
  rw [State.serve_serving _ hf]
  by_cases hl : p.length = rkBytes st
  · have hk := (isKeyMaterial_iff st p).2 hl
    by_cases ha : v = .accelerated ∧ s.accelPresent = false
    · exact .inr (.inr (.inl ⟨hf, hl, ha.1, ha.2, by simp [hk, ha]⟩))
    · refine .inr (.inr (.inr ⟨hf, hl, fun hv => ?_, by simp [hk, ha]⟩))
      simpa [hv] using ha
  · have hk : isKeyMaterial st p = false := by simp [isKeyMaterial, hl]
    exact .inr (.inl ⟨hf, hl, by simp [hk]⟩)

/-- Everything a PERMUTE can do. -/
theorem permuteCommand_cases (p : Frame) (s : State) :
    (s.fault = true ∧ permuteCommand p s = s.respond engineFaultedCode []) ∨
    (s.fault = false ∧ s.lifecycle ≠ .keyed ∧ permuteCommand p s = s.raise .badLifecycle) ∨
    (s.fault = false ∧ s.lifecycle = .keyed ∧ p.length ≠ 32 ∧ permuteCommand p s = s.raise .badLength) ∨
    (s.fault = false ∧ s.lifecycle = .keyed ∧ ∃ X : Block, p = X.list ∧ permuteCommand p s = s.permuted X) := by
  unfold permuteCommand
  by_cases hf : s.fault = true
  · exact .inl ⟨hf, State.serve_faulted _ hf⟩
  have hf : s.fault = false := by simpa using hf
  rw [State.serve_serving _ hf]
  by_cases hl : s.lifecycle = .keyed
  · cases hb : blockOperand p with
    | none => exact .inr (.inr (.inl ⟨hf, hl, (blockOperand_eq_none p).1 hb, by simp [hl]⟩))
    | some X => exact .inr (.inr (.inr ⟨hf, hl, X, blockOperand_eq_some hb, by simp [hl]⟩))
  · exact .inr (.inl ⟨hf, hl, by simp [hl]⟩)

/-- Everything a DISPOSE can do. -/
theorem disposeCommand_cases (p : Frame) (s : State) :
    (s.fault = true ∧ disposeCommand p s = s.respond engineFaultedCode []) ∨
    (s.fault = false ∧ s.lifecycle = .disposed ∧ disposeCommand p s = s.raise .badLifecycle) ∨
    (s.fault = false ∧ s.lifecycle ≠ .disposed ∧ p ≠ [] ∧ disposeCommand p s = s.raise .badLength) ∨
    (s.fault = false ∧ s.lifecycle ≠ .disposed ∧ p = [] ∧ disposeCommand p s = s.wiped) := by
  unfold disposeCommand
  by_cases hf : s.fault = true
  · exact .inl ⟨hf, State.serve_faulted _ hf⟩
  have hf : s.fault = false := by simpa using hf
  rw [State.serve_serving _ hf]
  by_cases hl : s.lifecycle = .disposed
  · exact .inr (.inl ⟨hf, hl, by simp [hl]⟩)
  · by_cases hp : p = []
    · exact .inr (.inr (.inr ⟨hf, hl, hp, by simp [hl, hp]⟩))
    · exact .inr (.inr (.inl ⟨hf, hl, hp, by simp [hl, hp]⟩))

/-- Everything a PROBE can do. -/
theorem probeCommand_cases (p : Frame) (s : State) :
    (p = [] ∧ probeCommand p s = s.respond okCode (le32 s.statusWord)) ∨
    (p ≠ [] ∧ s.fault = true ∧ probeCommand p s = s.respond engineFaultedCode []) ∨
    (p ≠ [] ∧ s.fault = false ∧ probeCommand p s = s.raise .badLength) := by
  unfold probeCommand
  by_cases hp : p = []
  · exact .inl ⟨hp, by simp [hp]⟩
  · by_cases hf : s.fault = true
    · exact .inr (.inl ⟨hp, hf, by simp [hp, State.serve_faulted _ hf]⟩)
    · have hf : s.fault = false := by simpa using hf
      exact .inr (.inr ⟨hp, hf, by simp [hp, State.serve_serving _ hf]⟩)

/-- Everything the answer to an Illegal frame can do. -/
theorem illegalFrame_cases (why : IllegalReason) (s : State) :
    (s.fault = true ∧ illegalFrame why s = s.respond engineFaultedCode []) ∨
    (s.fault = false ∧ illegalFrame why s = s.raise .illegalCommand) := by
  unfold illegalFrame
  by_cases hf : s.fault = true
  · exact .inl ⟨hf, State.serve_faulted _ hf⟩
  · have hf : s.fault = false := by simpa using hf
    exact .inr ⟨hf, State.serve_serving _ hf⟩

/-! ### The effects, field by field -/

@[simp] theorem State.permuted_eq (s : State) (X : Block) :
    s.permuted X = s.clearWorking.respond okCode (s.datapath X).w.list := rfl

theorem State.keyLoaded_eq (s : State) (st : Strength) (v : VSel) (p : Frame) :
    s.keyLoaded st v p =
      ((s.loadKey p).setMode .keyed st (resolveVariant s.accelPresent v)).respond okCode [] := rfl

theorem State.wiped_eq (s : State) :
    s.wiped = (s.wipeKey.clearWorking.setMode .disposed .strength256 .portable).respond okCode [] := rfl

end Sys2Proof.Machine
end

