-- ==== Sys2Proof/Laws/Decode.lean ====
section
/-! SUPPORT. The header word and its fields (30_encoding.md R81): each field of a header put together is read back, a
header is its fields, and what the decoder needs of the words of a frame. -/

namespace Sys2Proof

/-- A word's four bytes give the word back (00_scope.md R6). -/
theorem ofLE32_le32 (h : Word32) :
    ofLE32 (h.extractLsb' 0 8) (h.extractLsb' 8 8) (h.extractLsb' 16 8) (h.extractLsb' 24 8) = h := by
  apply BitVec.eq_of_getLsbD_eq
  intro i hi
  simp only [ofLE32, BitVec.getLsbD_append, BitVec.getLsbD_extractLsb']
  interval_cases i <;> simp

@[simp] theorem opcField_headerOf (o : BitVec 8) (s : BitVec 1) (v : BitVec 2) : opcField (headerOf o s v) = o := by
  apply BitVec.eq_of_getLsbD_eq
  intro i hi
  simp only [opcField, headerOf, BitVec.getLsbD_append, BitVec.getLsbD_extractLsb']
  interval_cases i <;> simp

@[simp] theorem strengthField_headerOf (o : BitVec 8) (s : BitVec 1) (v : BitVec 2) :
    strengthField (headerOf o s v) = s := by
  apply BitVec.eq_of_getLsbD_eq
  intro i hi
  simp only [strengthField, headerOf, BitVec.getLsbD_append, BitVec.getLsbD_extractLsb']
  interval_cases i
  simp

@[simp] theorem vselField_headerOf (o : BitVec 8) (s : BitVec 1) (v : BitVec 2) : vselField (headerOf o s v) = v := by
  apply BitVec.eq_of_getLsbD_eq
  intro i hi
  simp only [vselField, headerOf, BitVec.getLsbD_append, BitVec.getLsbD_extractLsb']
  interval_cases i <;> simp

@[simp] theorem reservedField_headerOf (o : BitVec 8) (s : BitVec 1) (v : BitVec 2) :
    reservedField (headerOf o s v) = 0 := by
  apply BitVec.eq_of_getLsbD_eq
  intro i hi
  simp only [reservedField, headerOf, BitVec.getLsbD_append, BitVec.getLsbD_extractLsb']
  interval_cases i <;> simp

/-- A header is its four fields (R81). -/
theorem header_fields (h : Word32) : h = reservedField h ++ vselField h ++ strengthField h ++ opcField h := by
  apply BitVec.eq_of_getLsbD_eq
  intro i hi
  simp only [reservedField, vselField, strengthField, opcField, BitVec.getLsbD_append, BitVec.getLsbD_extractLsb']
  interval_cases i <;> simp

theorem vselOfBits_eq_some {v : BitVec 2} {w : VSel} : vselOfBits v = some w → v = vselBits w := by
  cases w <;> revert v <;> decide

theorem strengthBit_strengthOfBit (b : BitVec 1) : strengthBit (strengthOfBit b) = b := by revert b; decide

/-- The decoder of a frame whose first word is `h` (R86). -/
theorem decode_le32 (h : Word32) (p : Frame) : decode (le32 h ++ p) = decodeHeader h p := by
  simp only [le32, List.cons_append, List.nil_append, decode, ofLE32_le32]

/-- When a command other than INIT decodes, every header bit above OPC is zero (R86). -/
theorem decodeBare_eq_instr {h : Word32} {i j : Instr} (e : decodeBare h i = .instr j) :
    reservedField h = 0 ∧ vselField h = 0 ∧ strengthField h = 0 ∧ j = i := by
  unfold decodeBare at e
  split at e
  · cases e
  · split at e
    · cases e
    · simp_all

/-- When an INIT decodes, the reserved bits are zero and the fields are the command's (R86). -/
theorem decodeInit_eq_instr {h : Word32} {p : Frame} {j : Instr} (e : decodeInit h p = .instr j) :
    reservedField h = 0 ∧ ∃ w, vselField h = vselBits w ∧ j = initInstr (strengthOfBit (strengthField h)) w p := by
  unfold decodeInit at e
  split at e
  · cases e
  · rename_i hr
    split at e
    · rename_i w hw
      cases e
      exact ⟨by simpa using hr, w, vselOfBits_eq_some hw, rfl⟩
    · cases e

end Sys2Proof
end

