-- ==== Sys2Proof/Laws/PerInstr.lean ====
section
/-! SUPPORT. Statements made for every command, one lemma per constructor. -/

/-- The command's header fits the row of the opcode table that carries its mnemonic (30_encoding.md R90). -/
def Sys2Proof.Laws.TableRowFits.Statement (i : Sys2Proof.Instr) : Prop :=
  ∃ row ∈ Sys2Proof.opcodeTable, row.mnemonic = i.mnemonic ∧ row.fits i.header = true

namespace Sys2Proof.Laws.TableRowFits

theorem initAuto (st : Strength) (p : Frame) : Statement (.initAuto st p) :=
  ⟨⟨"INIT.auto", 0x00000001, 0xFFFFFEFF⟩, by decide, rfl, by cases st <;> (simp only [Instr.header]; decide)⟩

theorem initPortable (st : Strength) (p : Frame) : Statement (.initPortable st p) :=
  ⟨⟨"INIT.portable", 0x00000201, 0xFFFFFEFF⟩, by decide, rfl, by cases st <;> (simp only [Instr.header]; decide)⟩

theorem initAccel (st : Strength) (p : Frame) : Statement (.initAccel st p) :=
  ⟨⟨"INIT.accel", 0x00000401, 0xFFFFFEFF⟩, by decide, rfl, by cases st <;> (simp only [Instr.header]; decide)⟩

theorem permute (p : Frame) : Statement (.permute p) :=
  ⟨⟨"PERMUTE", 0x00000002, 0xFFFFFFFF⟩, by decide, rfl, by simp only [Instr.header]; decide⟩

theorem dispose (p : Frame) : Statement (.dispose p) :=
  ⟨⟨"DISPOSE", 0x00000003, 0xFFFFFFFF⟩, by decide, rfl, by simp only [Instr.header]; decide⟩

theorem probe (p : Frame) : Statement (.probe p) :=
  ⟨⟨"PROBE", 0x00000004, 0xFFFFFFFF⟩, by decide, rfl, by simp only [Instr.header]; decide⟩

end Sys2Proof.Laws.TableRowFits
end

