-- ==== Sys2Proof/Laws/Step.lean ====
section
/-! SUPPORT. What a step can do, said once (60_exceptions.md R244, 70_reset_and_hazards.md R270). -/

namespace Sys2Proof.Machine

/-- The command behind each arm of `exec`, as a function on states. -/
def commandOf : Instr → State → State
  | .initAuto st p => initCommand st .auto p
  | .initPortable st p => initCommand st .portable p
  | .initAccel st p => initCommand st .accelerated p
  | .permute p => permuteCommand p
  | .dispose p => disposeCommand p
  | .probe p => probeCommand p

theorem exec_eq_commandOf (i : Instr) (s : State) : exec i s = .next (commandOf i s) := by
  cases i <;> rfl

theorem step_reset_input {s : State} {rest : List PortEvent} (h : s.inbox = .reset :: rest) :
    step s = .next (s.setInbox rest).applyReset := by simp [step, h]

theorem step_instr_frame {s : State} {F : Frame} {rest : List PortEvent} {i : Instr}
    (h : s.inbox = .frame F :: rest) (hd : decode F = .instr i) :
    step s = .next (commandOf i (s.setInbox rest)) := by simp [step, h, hd, exec_eq_commandOf]

theorem step_illegal_frame {s : State} {F : Frame} {rest : List PortEvent} {why : IllegalReason}
    (h : s.inbox = .frame F :: rest) (hd : decode F = .illegal why) :
    step s = .next (illegalFrame why (s.setInbox rest)) := by simp [step, h, hd]

/-- Everything a step can do. -/
theorem step_cases {s t : State} (h : step s = .next t) :
    (s.inbox = [] ∧ t = s) ∨
    (∃ rest, s.inbox = .reset :: rest ∧ t = (s.setInbox rest).applyReset) ∨
    (∃ F rest i, s.inbox = .frame F :: rest ∧ decode F = .instr i ∧ t = commandOf i (s.setInbox rest)) ∨
    (∃ F rest why, s.inbox = .frame F :: rest ∧ decode F = .illegal why ∧
      t = illegalFrame why (s.setInbox rest)) := by
  match hq : s.inbox with
  | [] => simp only [step, hq, Host.Outcome.next.injEq] at h; exact .inl ⟨rfl, h.symm⟩
  | .reset :: rest =>
    rw [step_reset_input hq, Host.Outcome.next.injEq] at h
    exact .inr (.inl ⟨rest, rfl, h.symm⟩)
  | .frame F :: rest =>
    cases hd : decode F with
    | instr i =>
      rw [step_instr_frame hq hd, Host.Outcome.next.injEq] at h
      exact .inr (.inr (.inl ⟨F, rest, i, rfl, hd, h.symm⟩))
    | illegal why =>
      rw [step_illegal_frame hq hd, Host.Outcome.next.injEq] at h
      exact .inr (.inr (.inr ⟨F, rest, why, rfl, hd, h.symm⟩))

end Sys2Proof.Machine
end

