-- ==== Sys2Proof/Tests/Slice0.lean ====
section
/-! SUPPORT. Tests. Every expected value is the spec's: the vectors of 95_test_vectors.md and
96_command_traces_and_reference_script.md part A and B, or the worked examples of the rule named. Then one witness per
statement of Certificates/Slice0/Obligations.lean that has hypotheses. -/

namespace Sys2Proof.Tests

open Sys2Proof Sys2Proof.Machine

-- one theorem at a time: the kernel evaluations below need a large stack each
set_option Elab.async false

/-! ### Small states -/

/-- `seq(a, n)` of 30_encoding.md R89. -/
@[irreducible] def seq (a n : Nat) : Frame := (List.range n).map fun i => BitVec.ofNat 8 (a + i)

/-- The bytes of a hexadecimal number, first byte first. -/
def hex (n w : Nat) : Frame := (bytesOfNat n w).reverse

/-- An engine right after reset, its capability chosen. -/
def fresh (accel : Bool) : State := { State.reset with accelPresent := accel }

/-- An engine keyed with `p`. -/
def keyed (accel : Bool) (st : Strength) (v : Variant) (p : Frame) : State :=
  { fresh accel with
    lifecycle := .keyed, strength := st, variant := v, rk := Memory.cellsFrom 0 (p ++ zeros (992 - p.length)) }

/-- An engine after DISPOSE. -/
def gone (accel : Bool) : State :=
  { fresh accel with lifecycle := .disposed, rk := Memory.cellsFrom 0 (zeros 992) }

/-- `s` with a fault recorded. -/
def broken (s : State) (c : Byte) : State := { s with fault := true, cause := c }

/-- `s` with one frame sent. -/
def sent (s : State) (F : Frame) : State := s.setInbox [.frame F]

/-- The state after one step. -/
def stepped (s : State) : State :=
  match step s with
  | .next t => t
  | .fault _ => s
  | .refused _ => s

/-- FAULT, CAUSE and the responses after the frame `F`. -/
def answer (s : State) (F : Frame) : Bool × Byte × List Frame :=
  ((stepped (sent s F)).fault, (stepped (sent s F)).cause, (stepped (sent s F)).outbox)

/-- A byte string as a lane. -/
def laneOf (B : Frame) : Lane := Bytes.build 16 fun i => B.getD i 0

/-- A byte string as a block. -/
def blockOf (B : Frame) : Block := Bytes.build 32 fun i => B.getD i 0

/-! ### Decoding: words written out from the fields of R81 (95_test_vectors.md 2.1) -/

-- reserved 21, VSEL 2, STRENGTH 1, OPC 8
theorem test_decode_init_auto_word : decodeTableWord 32 0b000000000000000000000_00_0_00000001 =
    some (.initAuto .strength256 (zeros 736)) := by decide +kernel

theorem test_decode_init_auto_strength_bit : decodeTableWord 32 0b000000000000000000000_00_1_00000001 =
    some (.initAuto .strength512 (zeros 992)) := by decide +kernel

theorem test_decode_init_portable_word : decodeTableWord 32 0b000000000000000000000_01_0_00000001 =
    some (.initPortable .strength256 (zeros 736)) := by decide +kernel

theorem test_decode_init_accel_word : decodeTableWord 32 0b000000000000000000000_10_1_00000001 =
    some (.initAccel .strength512 (zeros 992)) := by decide +kernel

theorem test_decode_permute_word : decodeTableWord 32 0b000000000000000000000_00_0_00000010 =
    some (.permute (zeros 32)) := by decide +kernel

theorem test_decode_dispose_word : decodeTableWord 32 0b000000000000000000000_00_0_00000011 =
    some (.dispose []) := by decide

theorem test_decode_probe_word : decodeTableWord 32 0b000000000000000000000_00_0_00000100 =
    some (.probe []) := by decide

-- E10, E12, E13, E14: VSEL = 3, then one reserved bit each
theorem test_decode_init_reserved :
    decode [0x01, 0x06, 0x00, 0x00] = .illegal .reservedVsel ∧ decode [0x01, 0x08, 0x00, 0x00] = .illegal .reservedBits ∧
    decode [0x01, 0x00, 0x01, 0x00] = .illegal .reservedBits ∧
    decode [0x01, 0x00, 0x00, 0x80] = .illegal .reservedBits := by decide

-- E15 to E22
theorem test_decode_other_illegal :
    decode (0x02 :: 0x01 :: 0x00 :: 0x00 :: zeros 32) = .illegal .initFieldOutsideInit ∧
    decode [0x03, 0x02, 0x00, 0x00] = .illegal .initFieldOutsideInit ∧
    decode [0x04, 0x00, 0x00, 0x01] = .illegal .reservedBits ∧
    decode [0x00, 0x00, 0x00, 0x00] = .illegal .unknownOpcode ∧
    decode [0x05, 0x00, 0x00, 0x00] = .illegal .unknownOpcode ∧
    decode [0xFF, 0xFF, 0xFF, 0xFF] = .illegal .unknownOpcode ∧
    decode [0x04, 0x00, 0x00] = .illegal .shortFrame ∧ decode [] = .illegal .shortFrame := by decide

-- E23: a payload does not stop the decoding of PROBE; the first payload byte is F[4] (R83)
theorem test_decode_keeps_payload :
    decode [0x04, 0x00, 0x00, 0x00, 0xA5] = .instr (.probe [0xA5]) ∧
    decode [0x01, 0x05, 0x00, 0x00, 0x11, 0x22] = .instr (.initAccel .strength512 [0x11, 0x22]) := by decide

/-! ### Well-formedness: one ill-formed term for each row (R82) -/

theorem test_wf_refuses_init_auto : (Instr.initAuto .strength256 (zeros 735)).wf = false := by decide +kernel

theorem test_wf_refuses_init_portable : (Instr.initPortable .strength256 (zeros 992)).wf = false := by decide +kernel

theorem test_wf_refuses_init_accel : (Instr.initAccel .strength512 (zeros 736)).wf = false := by decide +kernel

theorem test_wf_refuses_permute : (Instr.permute (zeros 33)).wf = false := by decide

theorem test_wf_refuses_dispose : (Instr.dispose [0x00]).wf = false := by decide

theorem test_wf_refuses_probe : (Instr.probe [0x00]).wf = false := by decide

theorem test_wf_accepts :
    (Instr.initAuto .strength256 (zeros 736)).wf = true ∧ (Instr.initAccel .strength512 (zeros 992)).wf = true ∧
    (Instr.permute (zeros 32)).wf = true ∧ (Instr.dispose []).wf = true := by decide +kernel

/-! ### Field arithmetic and tables (95_test_vectors.md 2.2) -/

theorem test_xtime : [0x00, 0x01, 0x57, 0xAE, 0x47, 0x8E, 0x7F, 0x80, 0xFF].map xtime =
    [0x00, 0x02, 0xAE, 0x47, 0x8E, 0x07, 0xFE, 0x1B, 0xE5] := by decide

theorem test_gmul :
    [gmul 0x57 0x83, gmul 0x57 0x13, gmul 0x57 0x03, gmul 0x80 0x02, gmul 0xFF 0x03, gmul 0x00 0x03, gmul 0x53 0xCA] =
      [0xC1, 0xFE, 0xF9, 0x1B, 0x1A, 0x00, 0x01] := by decide

theorem test_sbox_spots : [0x00, 0x01, 0x53, 0x7F, 0x80, 0xFF].map sbox = [0x63, 0x7C, 0xED, 0xD2, 0xCD, 0x16] ∧
    [0x00, 0x63, 0xED, 0x16, 0xFF].map invSbox = [0x52, 0x00, 0x53, 0xFF, 0x7D] := by decide

/-! ### The steps of a round on 00 01 .. 1F (95_test_vectors.md 2.2) -/

theorem test_sub_bytes : (subBytes (blockOf (seq 0 32))).list =
    hex 32 0x637C777BF26B6FC53001672BFED7AB76CA82C97DFA5947F0ADD4A2AF9CA472C0 := by decide +kernel

theorem test_shift_rows : (shiftRows (blockOf (seq 0 32))).list =
    hex 32 0x00050E1304091217080D161B0C111A1F10151E0314190207181D060B1C010A0F := by decide +kernel

theorem test_mix_columns : (mixColumns (blockOf (seq 0 32))).list =
    hex 32 0x02070005060304010A0F080D0E0B0C0912171015161314111A1F181D1E1B1C19 := by decide +kernel

theorem test_mix_columns_of_columns :
    mixList (hex 4 0xDB135345) = hex 4 0x8E4DA1BC ∧ mixList (hex 4 0x80000000) = hex 4 0x1B80809B ∧
    mixList (hex 4 0x00800000) = hex 4 0x9B1B8080 ∧ mixList (hex 4 0x00000100) = hex 4 0x01030201 := by decide +kernel

/-! ### The accelerated datapath (95_test_vectors.md 2.4) -/

theorem test_blend : (blend (laneOf (seq 0 16)) (laneOf (seq 16 16))).list =
    hex 16 0x001112130405161708091A1B0C0D0E1F := by decide +kernel

theorem test_shuffle : (shuffle (laneOf (hex 16 0x001112130405161708091A1B0C0D0E1F))).list =
    hex 16 0x0011161704051A1B08090E1F0C0D1213 := by decide +kernel

theorem test_shift_rows4 : (shiftRows4 (laneOf (hex 16 0x0011161704051A1B08090E1F0C0D1213))).list =
    hex 16 0x00050E1304091217080D161B0C111A1F := by decide +kernel

-- V20, the FIPS-197 example
theorem test_half_round :
    (halfRound (laneOf (hex 16 0x193DE3BEA0F4E22B9AC68D2AE9F84808))
      (laneOf (hex 16 0xA0FAFE1788542CB123A339392A6C7605))).list = hex 16 0xA49C7FF2689F352B6B5BEA43026A5049 := by
  decide +kernel

theorem test_half_round_last :
    (halfRoundLast (laneOf (hex 16 0x193DE3BEA0F4E22B9AC68D2AE9F84808))
      (laneOf (hex 16 0xA0FAFE1788542CB123A339392A6C7605))).list = hex 16 0x7445A32768E07E1F9BE228C8344BEEE0 := by
  decide +kernel

-- V21, V22: V3's rounds 1 and 2 through the lanes, round key r being seq(32r, 32)
theorem test_lane_rounds :
    (repeatRound (laneRound halfRound fun r => blockOf (seq (32 * r) 32)) 2 ⟨Bytes.zeros 32, 0⟩).w.list =
      hex 32 0x2A822A728F1AE9FBD2D18B82DEC599871C188D90A3EC83B1FE301182BFAEB050 := by decide +kernel

-- the same rounds on the portable datapath, with RND
theorem test_portable_rounds :
    repeatRound (portableRound fun r => blockOf (seq (32 * r) 32)) 2 ⟨Bytes.zeros 32, 0⟩ =
      ⟨blockOf (hex 32 0x2A822A728F1AE9FBD2D18B82DEC599871C188D90A3EC83B1FE301182BFAEB050), 2⟩ := by decide +kernel

/-! ### INIT -/

-- 40_init_keyload.md R110 example: AUTO takes the accelerated datapath where it is present
theorem test_init_auto :
    let t := stepped (sent (fresh true) (0x01 :: 0x00 :: 0x00 :: 0x00 :: zeros 736))
    t.lifecycle = .keyed ∧ t.strength = .strength256 ∧ t.variant = .accelerated ∧ t.outbox = [[0, 0, 0, 0]] ∧
      t.rkByte 0 = 0 ∧ t.rkByte 991 = 0 := by decide +kernel

-- T5
theorem test_init_auto_wrong_length :
    answer (fresh true) (0x01 :: 0x00 :: 0x00 :: 0x00 :: zeros 735) = (true, 3, [[3, 0, 0, 0]]) := by decide +kernel

-- T1: re-keying over a longer key leaves zeros above byte 735 (R112, R113)
theorem test_init_portable_rekeys :
    let t := stepped (sent (keyed true .strength512 .accelerated (seq 0 992)) (0x01 :: 0x02 :: 0x00 :: 0x00 :: seq 1 736))
    t.variant = .portable ∧ t.strength = .strength256 ∧ t.rkByte 0 = 1 ∧ t.rkByte 735 = 0xE0 ∧ t.rkByte 736 = 0 ∧
      t.rkByte 991 = 0 := by decide +kernel

-- T10: a faulting INIT keeps the old key and mode
theorem test_init_portable_fault_keeps_key :
    let t := stepped (sent (keyed false .strength256 .portable (seq 0 736)) (0x01 :: 0x03 :: 0x00 :: 0x00 :: zeros 991))
    t.fault = true ∧ t.cause = 3 ∧ t.lifecycle = .keyed ∧ t.strength = .strength256 ∧ t.rkByte 735 = 0xDF := by
  decide +kernel

-- T6, T7: length comes before variant
theorem test_init_accel_absent :
    answer (fresh false) (0x01 :: 0x04 :: 0x00 :: 0x00 :: zeros 736) = (true, 4, [[4, 0, 0, 0]]) ∧
    answer (fresh false) (0x01 :: 0x04 :: 0x00 :: 0x00 :: zeros 700) = (true, 3, [[3, 0, 0, 0]]) := by decide +kernel

-- T1, last line: INIT from Disposed
theorem test_init_accel_from_disposed :
    let t := stepped (sent (gone true) (0x01 :: 0x05 :: 0x00 :: 0x00 :: seq 0 992))
    t.lifecycle = .keyed ∧ t.strength = .strength512 ∧ t.variant = .accelerated ∧ t.rkByte 991 = 0xDF := by
  decide +kernel

/-! ### PERMUTE -/

-- V3
theorem test_permute_portable_22_rounds :
    (stepped (sent (keyed false .strength256 .portable (seq 0 736)) (0x02 :: 0x00 :: 0x00 :: 0x00 :: seq 0 32))).outbox =
      [zeros 4 ++ hex 32 0x8DE5098777EE6CA9C9D665BE503C5234563E82DA0162C40F7C18F5795A4C63E6] := by decide +kernel

-- V4, through the accelerated datapath
theorem test_permute_accelerated_30_rounds :
    (stepped (sent (keyed true .strength512 .accelerated (seq 0 992)) (0x02 :: 0x00 :: 0x00 :: 0x00 :: seq 0 32))).outbox =
      [zeros 4 ++ hex 32 0xCCCDCE8E4F5501DE0E991945E99C2F9B0624F9C78C00FF0E2691827CE37E5E1D] := by decide +kernel

-- T8, T11
theorem test_permute_violations :
    answer (fresh false) (0x02 :: 0x00 :: 0x00 :: 0x00 :: zeros 31) = (true, 2, [[2, 0, 0, 0]]) ∧
    answer (keyed false .strength256 .portable (zeros 736)) (0x02 :: 0x00 :: 0x00 :: 0x00 :: zeros 33) =
      (true, 3, [[3, 0, 0, 0]]) := by decide +kernel

/-! ### DISPOSE -/

-- R190 example
theorem test_dispose :
    let t := stepped (sent (keyed true .strength512 .accelerated (seq 1 992)) [0x03, 0x00, 0x00, 0x00])
    t.lifecycle = .disposed ∧ t.strength = .strength256 ∧ t.variant = .portable ∧ t.rkByte 0 = 0 ∧ t.rkByte 991 = 0 ∧
      t.outbox = [[0, 0, 0, 0]] := by decide +kernel

-- T3, E27, T4 (first line)
theorem test_dispose_violations :
    answer (gone false) [0x03, 0x00, 0x00, 0x00] = (true, 2, [[2, 0, 0, 0]]) ∧
    answer (fresh false) [0x03, 0x00, 0x00, 0x00, 0x00] = (true, 3, [[3, 0, 0, 0]]) ∧
    answer (fresh false) [0x03, 0x00, 0x00, 0x00] = (false, 0, [[0, 0, 0, 0]]) := by decide +kernel

/-! ### PROBE -/

-- R91 examples and part A: 0x10, 0x1D, 0x01, 0x232, 0x33D
theorem test_probe_words :
    answer (fresh true) [0x04, 0x00, 0x00, 0x00] = (false, 0, [[0, 0, 0, 0, 0x10, 0x00, 0x00, 0x00]]) ∧
    answer (keyed true .strength512 .accelerated []) [0x04, 0x00, 0x00, 0x00] =
      (false, 0, [[0, 0, 0, 0, 0x1D, 0x00, 0x00, 0x00]]) ∧
    answer (broken (gone true) 2) [0x04, 0x00, 0x00, 0x00] = (true, 2, [[0, 0, 0, 0, 0x32, 0x02, 0x00, 0x00]]) ∧
    answer (broken (keyed true .strength512 .accelerated []) 3) [0x04, 0x00, 0x00, 0x00] =
      (true, 3, [[0, 0, 0, 0, 0x3D, 0x03, 0x00, 0x00]]) := by decide +kernel

-- E23, T10: a PROBE with a payload
theorem test_probe_with_payload :
    answer (fresh false) [0x04, 0x00, 0x00, 0x00, 0x00] = (true, 3, [[3, 0, 0, 0]]) ∧
    answer (broken (fresh false) 2) [0x04, 0x00, 0x00, 0x00, 0x00] = (true, 2, [[5, 0, 0, 0]]) := by decide +kernel

/-! ### Faults and reset -/

-- T9, then T2: illegal before lifecycle, and code 5 keeps the first cause
theorem test_illegal_frames :
    answer (fresh false) (0x02 :: 0x01 :: 0x00 :: 0x00 :: zeros 32) = (true, 1, [[1, 0, 0, 0]]) ∧
    answer (broken (fresh false) 2) [0x00, 0x00, 0x00, 0x00] = (true, 2, [[5, 0, 0, 0]]) := by decide +kernel

-- T10: reset is the exit from a fault
theorem test_reset_input :
    let t := stepped ((broken (keyed true .strength512 .accelerated (seq 0 992)) 3).setInbox [.reset])
    t.lifecycle = .created ∧ t.strength = .strength256 ∧ t.variant = .portable ∧ t.fault = false ∧ t.cause = 0 ∧
      t.outbox = [] := by decide +kernel

-- the very next step after `withFetchWord` runs the row, whatever ACCEL_PRESENT is
theorem test_withFetchWord_runs_dispose :
    (stepped (State.reset.withFetchWord 32 3)).lifecycle = .disposed ∧
    (stepped (State.reset.withFetchWord 32 0x201)).lifecycle = .keyed := by decide +kernel

/-! ### The host's side (95_test_vectors.md 2.7) -/

theorem test_inc :
    (inc (blockOf (hex 32 0xFFFF000000000000000000000000000000000000000000000000000000000000))).list =
      hex 32 0x0000010000000000000000000000000000000000000000000000000000000000 ∧
    (inc (blockOf (List.replicate 32 0xFF))).list = zeros 32 := by decide +kernel

theorem test_inc_bytes :
    incBytes (hex 32 0xFFFEFDFCFBFAF9F8F7F6F5F4F3F2F1F0DFDEDDDCDBDAD9D8D7D6D5D4D3D2D1D0) =
      hex 32 0x00FFFDFCFBFAF9F8F7F6F5F4F3F2F1F0DFDEDDDCDBDAD9D8D7D6D5D4D3D2D1D0 ∧
    incBytes (0xFF :: zeros 30 ++ [0xFF]) = 0x00 :: 0x01 :: zeros 29 ++ [0xFF] := by decide +kernel

/-! ### Witnesses: for each statement with hypotheses, values that meet them, at the ends of each clause's range -/

-- the two keyed engines of the witnesses: one key, both variants, the second with other bytes above the material
def keyedWith (v : Variant) (p above : Frame) : State :=
  { fresh true with lifecycle := .keyed, variant := v, rk := Memory.cellsFrom 0 (p ++ above) }

def keyedP : State := keyedWith .portable (seq 0 736) (zeros 256)

def keyedA : State := keyedWith .accelerated (seq 0 736) (List.replicate 256 0xAA)

theorem seq_length (a n : Nat) : (seq a n).length = n := by unfold seq; simp

theorem keyedWith_rkByte (v : Variant) (p above : Frame) (a : Nat) (h : a < p.length) :
    (keyedWith v p above).rkByte a = p.getD a 0 := by
  have hr := Memory.read_cellsFrom 0 (p ++ above) a (by simp; omega)
  rw [Nat.zero_add] at hr
  rw [State.rkByte_of_read (s := keyedWith v p above) hr]
  simp [List.getD_eq_getElem?_getD, List.getElem?_append, h]

theorem keyedP_keyedA_same_material (a : Nat) (h : a < materialLength .strength256) :
    keyedP.rkByte a = keyedA.rkByte a := by
  have h : a < (seq 0 736).length := by rw [seq_length]; exact h
  rw [keyedP, keyedA, keyedWith_rkByte _ _ _ _ h, keyedWith_rkByte _ _ _ _ h]

theorem witness_DecodeInvertsEncode :
    decode [0x03, 0x00, 0x00, 0x00] = .instr (.dispose []) ∧ [0x03, 0x00, 0x00, 0x00] = encode (.dispose []) := by decide

-- one frame for each Illegal clause, at the ends of its range
theorem witness_IllegalFramesAreTheListedOnes :
    (fresh false).fault = false ∧ (sent (fresh false) [0x05, 0, 0, 0]).inbox = .frame [0x05, 0, 0, 0] :: [] ∧
    ∀ F ∈ [[], [0x04, 0, 0], [0x00, 0, 0, 0], [0x05, 0, 0, 0], [0xFF, 0, 0, 0], [0x01, 0x08, 0, 0], [0x04, 0, 0, 0x80],
      [0x02, 0x01, 0, 0], [0x04, 0x04, 0, 0], [0x01, 0x06, 0, 0], [0x01, 0x07, 0, 0]],
      ∃ why ∈ [IllegalReason.shortFrame, .unknownOpcode, .reservedBits, .reservedVsel, .initFieldOutsideInit],
        decode F = .illegal why := by decide

theorem witness_OpcodeTableClassifiesHeaders :
    decode [0x01, 0x05, 0, 0] = .instr (.initAccel .strength512 []) ∧
    (⟨"INIT.accel", 0x00000401, 0xFFFFFEFF⟩ ∈ opcodeTable) ∧
    (⟨"INIT.accel", 0x00000401, 0xFFFFFEFF⟩ : TableRow).fits (ofLE32 0x01 0x05 0 0) = true ∧
    decode [0x01, 0x06, 0, 0] = .illegal .reservedVsel := by decide

theorem witness_StepRunsDecodedCommand :
    (sent (fresh false) [0x04, 0, 0, 0]).inbox = .frame [0x04, 0, 0, 0] :: [] ∧
    decode [0x04, 0, 0, 0] = .instr (.probe []) := by decide

theorem witness_IdleEngineHoldsState : keyedP.inbox = [] := rfl

theorem witness_ResetInputEntersResetState :
    ((broken keyedP 1).setInbox [.reset, .frame []]).inbox = .reset :: [.frame []] := rfl

theorem witness_InitAutoLoadsKey :
    (fresh true).fault = false ∧ (seq 0 736).length = materialLength .strength256 ∧
    keyedP.fault = false ∧ (seq 0 992).length = materialLength .strength512 :=
  ⟨rfl, seq_length 0 736, rfl, seq_length 0 992⟩

theorem witness_InitPortableLoadsKey :
    (gone false).fault = false ∧ (seq 0 736).length = materialLength .strength256 ∧
    (seq 0 992).length = materialLength .strength512 := ⟨rfl, seq_length 0 736, seq_length 0 992⟩

theorem witness_InitAccelLoadsKey :
    (fresh true).fault = false ∧ (fresh true).accelPresent = true ∧
    (seq 0 736).length = materialLength .strength256 ∧ (seq 0 992).length = materialLength .strength512 :=
  ⟨rfl, rfl, seq_length 0 736, seq_length 0 992⟩

theorem witness_InitWrongLengthFaults :
    (fresh true).fault = false ∧ (seq 0 735).length ≠ materialLength .strength256 ∧
    (seq 0 992).length ≠ materialLength .strength256 ∧ (seq 0 736).length ≠ materialLength .strength512 := by
  simp only [seq_length]; decide

theorem witness_InitAccelWithoutDatapathFaults :
    (fresh false).fault = false ∧ (fresh false).accelPresent = false ∧
    (seq 0 736).length = materialLength .strength256 := ⟨rfl, rfl, seq_length 0 736⟩

theorem witness_InitLeavesNoOldKeyByte :
    (fresh true).fault = false ∧ keyedP.fault = false ∧
    (VSel.accelerated = .accelerated → (fresh true).accelPresent = true ∧ keyedP.accelPresent = true) ∧
    (seq 0 736).length = materialLength .strength256 ∧
    exec (initInstr .strength256 .accelerated (seq 0 736)) (fresh true) =
      .next (initCommand .strength256 .accelerated (seq 0 736) (fresh true)) ∧
    exec (initInstr .strength256 .accelerated (seq 0 736)) keyedP =
      .next (initCommand .strength256 .accelerated (seq 0 736) keyedP) :=
  ⟨rfl, rfl, fun _ => ⟨rfl, rfl⟩, seq_length 0 736, rfl, rfl⟩

theorem witness_InitFrame :
    exec (initInstr .strength256 .auto (seq 0 736)) keyedP = .next (initCommand .strength256 .auto (seq 0 736) keyedP) :=
  rfl

theorem witness_PermuteAnswersPermutedBlock :
    keyedP.fault = false ∧ keyedP.lifecycle = .keyed ∧ keyedA.fault = false ∧ keyedA.lifecycle = .keyed ∧
    keyedA.variant = .accelerated := ⟨rfl, rfl, rfl, rfl, rfl⟩

theorem witness_PermuteOutsideKeyedFaults :
    (fresh true).fault = false ∧ (fresh true).lifecycle ≠ .keyed ∧ (gone true).fault = false ∧
    (gone true).lifecycle ≠ .keyed := by decide

theorem witness_PermuteWrongLengthFaults :
    keyedP.fault = false ∧ keyedP.lifecycle = .keyed ∧ (zeros 31).length ≠ 32 ∧ (zeros 33).length ≠ 32 := by
  refine ⟨rfl, rfl, ?_⟩; decide

theorem witness_PermuteFrame : exec (.permute (zeros 32)) keyedP = .next (permuteCommand (zeros 32) keyedP) := rfl

-- the least number of rounds, and the engine's
theorem witness_VariantsComputeOnePermutation : 1 ≤ 1 ∧ 1 ≤ rounds .strength256 ∧ 1 ≤ rounds .strength512 := by decide

theorem witness_PortableDatapathComputesPerm : 1 ≤ 1 ∧ 1 ≤ rounds .strength256 ∧ 1 ≤ rounds .strength512 := by decide

theorem witness_AnswerDependsOnMaterialInUse :
    keyedP.fault = false ∧ keyedA.fault = false ∧ keyedP.lifecycle = .keyed ∧ keyedA.lifecycle = .keyed ∧
    keyedP.strength = keyedA.strength ∧
    ∀ a, a < materialLength keyedP.strength → keyedP.rkByte a = keyedA.rkByte a :=
  ⟨rfl, rfl, rfl, rfl, rfl, keyedP_keyedA_same_material⟩

-- the last byte of round key 22 and of its two lane keys
theorem witness_RoundKeysAreStoreSlices :
    31 < 32 ∧ 15 < 16 ∧ (keyedP.roundKey 22).get 31 = 0xDF ∧ (laneKey0 keyedP.roundKey 22).get 15 = 0xCF ∧
    (laneKey1 keyedP.roundKey 22).get 15 = 0xDF := by decide +kernel

theorem witness_PermuteUsesKeyJustLoaded :
    (fresh true).fault = false ∧ (VSel.accelerated = .accelerated → (fresh true).accelPresent = true) ∧
    (seq 0 992).length = materialLength .strength512 := ⟨rfl, fun _ => rfl, seq_length 0 992⟩

theorem witness_RepeatedPermuteAnswersTheSame : keyedA.fault = false ∧ keyedA.lifecycle = .keyed := ⟨rfl, rfl⟩

theorem witness_FieldArithmeticLaws : 7 < 8 ∧ gmul 0x57 (BitVec.twoPow 8 7) = 0x38 := by decide

theorem witness_SboxMeetsItsFormula : gmul 0x53 0xCA = 1 ∧ (0x53 : Byte) ≠ 0 ∧ sbox 0x53 = 0xED ∧ sbox 0x00 = 0x63 := by
  decide

theorem witness_ShiftRowsMovesRows :
    7 < 8 ∧ (shiftRows (blockOf (seq 0 32))).get 30 = 0x0A ∧ (shiftRows (blockOf (seq 0 32))).get 31 = 0x0F := by
  decide +kernel

theorem witness_MixColumnsMixesColumns :
    7 < 8 ∧ 3 < 4 ∧ (∀ r, r < 4 → (blockOf (List.replicate 32 0xC6)).get (4 * 7 + r) = 0xC6) ∧
    ∀ r, r < 4 → (laneOf (List.replicate 16 0xC6)).get (4 * 3 + r) = 0xC6 := by decide +kernel

-- position 1 is taken from the second lane, positions 0 and 14 are not, position 15 is
theorem witness_BlendTakesTheListedPositions :
    15 < 16 ∧ (blend (laneOf (seq 0 16)) (laneOf (seq 16 16))).get 0 = 0x00 ∧
    (blend (laneOf (seq 0 16)) (laneOf (seq 16 16))).get 1 = 0x11 ∧
    (blend (laneOf (seq 0 16)) (laneOf (seq 16 16))).get 14 = 0x0E ∧
    (blend (laneOf (seq 0 16)) (laneOf (seq 16 16))).get 15 = 0x1F := by decide +kernel

theorem witness_ShuffleRotatesLowerRows : 3 < 4 ∧ (shuffle (laneOf (seq 0 16))).get 14 = 0x02 := by decide +kernel

theorem witness_DisposeWipesKey :
    (fresh true).fault = false ∧ (fresh true).lifecycle ≠ .disposed ∧ keyedP.fault = false ∧
    keyedP.lifecycle ≠ .disposed := by
  refine ⟨rfl, ?_, rfl, ?_⟩ <;> exact fun h => Lifecycle.noConfusion h

theorem witness_DisposeViolations :
    (gone true).fault = false ∧ (gone true).lifecycle = .disposed ∧ (fresh true).fault = false ∧
    (fresh true).lifecycle ≠ .disposed ∧ ([0x00] : Frame) ≠ [] := by decide

theorem witness_DisposeFrame : exec (.dispose []) keyedP = .next (disposeCommand [] keyedP) := rfl

theorem witness_ProbeWithPayloadFaults : (gone true).fault = false ∧ ([0x00] : Frame) ≠ [] := by decide

theorem witness_ProbeFrame :
    exec (.probe []) keyedP = .next (probeCommand [] keyedP) ∧
    exec (.probe [0x00]) (broken keyedP 1) = .next (probeCommand [0x00] (broken keyedP 1)) ∧
    (broken keyedP 1).fault = true := ⟨rfl, rfl, rfl⟩

theorem witness_FaultedEngineAnswersCode5 :
    (broken keyedP 1).fault = true ∧
    (sent (broken keyedP 1) [0x04, 0, 0, 0]).inbox = .frame [0x04, 0, 0, 0] :: [] ∧
    decode [0x04, 0, 0, 0] = .instr (.probe []) ∧ decode [0x04, 0, 0, 0, 0] ≠ .instr (.probe []) ∧
    step ((broken keyedP 1).setInbox [.reset]) = .next ((broken keyedP 1).setInbox []).applyReset ∧
    ((broken keyedP 1).setInbox []).applyReset.fault = false := by
  refine ⟨rfl, rfl, by decide, by decide, rfl, rfl⟩

theorem witness_FaultEntryIsPrecise :
    step (sent (fresh true) [0x02, 0, 0, 0]) = .next (permuteCommand [] (fresh true)) ∧
    (sent (fresh true) [0x02, 0, 0, 0]).fault = false ∧ (permuteCommand [] (fresh true)).fault = true :=
  ⟨step_instr_frame (i := .permute []) rfl (by decide), rfl, rfl⟩

-- one frame and state for each code from 0 to 5, and the pairs of checks that meet
theorem witness_FirstCheckThatFailsIsReported :
    (sent (fresh true) [0x04, 0, 0, 0]).inbox = .frame [0x04, 0, 0, 0] :: [] ∧
    dispatchCode (broken (fresh true) 1) (.instr (.probe [])) = 0 ∧
    dispatchCode (broken (fresh true) 1) (.illegal .shortFrame) = 5 ∧
    dispatchCode (fresh true) (.illegal .shortFrame) = 1 ∧
    dispatchCode (fresh true) (.instr (.permute (zeros 31))) = 2 ∧
    dispatchCode (gone true) (.instr (.dispose [0x00])) = 2 ∧
    dispatchCode (fresh false) (.instr (.initAccel .strength256 (zeros 700))) = 3 ∧
    dispatchCode (fresh false) (.instr (.initAccel .strength256 (zeros 736))) = 4 ∧
    dispatchCode (fresh true) (.instr (.initAccel .strength256 (zeros 736))) = 0 := by decide +kernel

theorem witness_ResponseFormatIsLegal :
    (sent (fresh true) [0x04, 0, 0, 0]).inbox = .frame [0x04, 0, 0, 0] :: [] ∧
    step (sent (fresh true) [0x04, 0, 0, 0]) = .next (probeCommand [] (fresh true)) :=
  ⟨rfl, step_instr_frame (i := .probe []) rfl (by decide)⟩

theorem witness_LifecycleFollowsTheTable :
    (fresh true).fault = false ∧ exec (.dispose []) (fresh true) = .next (disposeCommand [] (fresh true)) ∧
    (disposeCommand [] (fresh true)).fault = false ∧ (fresh true).lifecycle ≠ .keyed ∧
    (disposeCommand [] (gone true)).fault = true ∧ (gone true).lifecycle = .disposed ∧
    dispatchCode (fresh true) (.instr (.dispose [])) = 0 ∧ dispatchCode (gone true) (.instr (.dispose [])) ≠ 0 := by
  refine ⟨rfl, rfl, rfl, ?_, rfl, rfl, ?_, ?_⟩ <;> decide +kernel

-- a Created engine, then a Keyed one
theorem witness_StepKeepsInvariant :
    (fresh true).Inv ∧ step (sent (fresh true) [0x04, 0, 0, 0]) = .next (probeCommand [] (fresh true)) :=
  ⟨⟨rfl, by simp [fresh, State.reset], by simp [fresh, State.reset], by simp [fresh, State.reset], fun _ => rfl,
    fun _ => ⟨rfl, rfl⟩, by simp [fresh, State.reset], by simp [fresh, State.reset], fun _ => rfl, ⟨rfl, rfl⟩,
    by simp [fresh, State.reset], by simp [fresh, State.reset, Cause.code]⟩,
    step_instr_frame (i := .probe []) rfl (by decide)⟩

theorem witness_StepKeepsInvariant_keyed : keyedP.Inv := by
  have hlen : (seq 0 736 ++ zeros 256).length = 992 := by simp [seq_length]
  have hread : ∀ a, a < 992 → Memory.read keyedP.rk a = some ((seq 0 736 ++ zeros 256).getD a 0) := fun a ha => by
    have hr := Memory.read_cellsFrom 0 (seq 0 736 ++ zeros 256) a (by omega)
    rwa [Nat.zero_add] at hr
  refine ⟨Memory.wfFrom_cellsFrom 0 _ (by rw [hlen]; exact Nat.le_refl _), fun _ a ha => ⟨_, hread a ha⟩,
    fun _ a h1 h2 => ?_, fun h => Lifecycle.noConfusion h, fun h => Lifecycle.noConfusion h, fun h => absurd rfl h,
    ⟨fun _ => rfl, fun _ => rfl⟩, by simp [keyedP, keyedWith, fresh, State.reset], fun _ => rfl, ⟨rfl, rfl⟩,
    by simp [keyedP, keyedWith, fresh, State.reset, Cause.code],
    by simp [keyedP, keyedWith, fresh, State.reset, Cause.code]⟩
  have h1 : 736 ≤ a := h1
  have h2 : a < 992 := h2
  rw [hread a h2, List.getD_eq_getElem?_getD, List.getElem?_append_right (by rw [seq_length]; exact h1), zeros,
    List.getElem?_replicate]
  split <;> rfl

theorem witness_ReachableStatesMeetInvariant :
    Sys2Proof.core.run 1 (State.reset.setInbox [.reset]) = .next (State.reset.setInbox []).applyReset := rfl

theorem witness_KeyMaterialIsConfined :
    (sent keyedP [0x04, 0, 0, 0]).agreeButKey { sent keyedP [0x04, 0, 0, 0] with rk := keyedA.rk } ∧
    ¬ (sent keyedP [0x04, 0, 0, 0]).permuteNext := by
  refine ⟨rfl, ?_⟩
  rintro ⟨-, -, X, rest, h⟩
  have e : PortEvent.frame [0x04, 0, 0, 0] = .frame (encode (.permute X.list)) := (List.cons.inj h).1
  injection e with e
  exact absurd (List.cons.inj e).1 (by simp only [Instr.header]; decide)

theorem witness_OnlyInitDisposeResetChangeKeyOrMode :
    step (sent keyedP [0x03, 0, 0, 0]) = .next (disposeCommand [] (keyedP.setInbox [])) :=
  step_instr_frame (i := .dispose []) rfl (by decide)

theorem witness_AccelPresentNeverChanges :
    step (sent keyedP [0x03, 0, 0, 0]) = .next (disposeCommand [] (keyedP.setInbox [])) :=
  step_instr_frame (i := .dispose []) rfl (by decide)

theorem witness_ResetThenDisposeErases :
    ((broken keyedP 1).setInbox [.reset, .frame [0x03, 0x00, 0x00, 0x00]]).inbox =
      .reset :: .frame [0x03, 0x00, 0x00, 0x00] :: [] := rfl

-- an input of no block and one of two blocks, the last partial
theorem witness_CounterModeRoundTrips :
    keyedP.fault = false ∧ keyedA.fault = false ∧ keyedP.lifecycle = .keyed ∧ keyedA.lifecycle = .keyed ∧
    keyedP.strength = keyedA.strength ∧
    (∀ a, a < materialLength keyedP.strength → keyedP.rkByte a = keyedA.rkByte a) ∧
    (([] : Frame).length + 31) / 32 = 0 ∧ ((seq 0xA0 40).length + 31) / 32 = 2 :=
  ⟨rfl, rfl, rfl, rfl, rfl, keyedP_keyedA_same_material, rfl, by rw [seq_length]⟩

end Sys2Proof.Tests
end

/-! # The state's rules (10_state.md): the invariant, who may change the key and the mode, the confinement of the key -/

/-! ## What the engine can do with one frame -/

namespace Sys2Proof.Machine

/-- What handling the frame that decodes to `d` can make of the state `s` it is handled in, one constructor per
effect, with the checks of 60_exceptions.md R244 the effect implies. -/
inductive State.Handles (s : State) : Decoded → State → Prop
  | answered (d : Decoded) (c : Byte) (p : Frame) : s.Handles d (s.respond c p)
  | violated (d : Decoded) (c : Cause) (notKeyed : c = .badLifecycle → s.lifecycle ≠ .keyed)
      (absent : c = .variantUnavailable → s.accelPresent = false) : s.Handles d (s.raise c)
  | keyLoaded (st : Strength) (v : VSel) (p : Frame) (serving : s.fault = false) (length : p.length = rkBytes st)
      (present : v = .accelerated → s.accelPresent = true) :
      s.Handles (.instr (initInstr st v p)) (s.keyLoaded st v p)
  | permuted (X : Block) (serving : s.fault = false) (keyed : s.lifecycle = .keyed) :
      s.Handles (.instr (.permute X.list)) (s.permuted X)
  | wiped (serving : s.fault = false) : s.Handles (.instr (.dispose [])) s.wiped

theorem handles_initCommand (st : Strength) (v : VSel) (p : Frame) (s : State) :
    s.Handles (.instr (initInstr st v p)) (initCommand st v p s) := by
  obtain ⟨-, e⟩ | ⟨-, -, e⟩ | ⟨-, -, -, absent, e⟩ | ⟨serving, length, present, e⟩ := initCommand_cases st v p s <;>
    rw [e]
  · exact .answered _ _ _
  · exact .violated _ _ nofun nofun
  · exact .violated _ _ nofun fun _ => absent
  · exact .keyLoaded st v p serving length present

theorem handles_permuteCommand (p : Frame) (s : State) :
    s.Handles (.instr (.permute p)) (permuteCommand p s) := by
  obtain ⟨-, e⟩ | ⟨-, notKeyed, e⟩ | ⟨-, -, -, e⟩ | ⟨serving, keyed, X, rfl, e⟩ := permuteCommand_cases p s <;> rw [e]
  · exact .answered _ _ _
  · exact .violated _ _ (fun _ => notKeyed) nofun
  · exact .violated _ _ nofun nofun
  · exact .permuted X serving keyed

theorem handles_disposeCommand (p : Frame) (s : State) :
    s.Handles (.instr (.dispose p)) (disposeCommand p s) := by
  obtain ⟨-, e⟩ | ⟨-, disposed, e⟩ | ⟨-, -, -, e⟩ | ⟨serving, -, rfl, e⟩ := disposeCommand_cases p s <;> rw [e]
  · exact .answered _ _ _
  · exact .violated _ _ (fun _ => by simp [disposed]) nofun
  · exact .violated _ _ nofun nofun
  · exact .wiped serving

theorem handles_probeCommand (p : Frame) (s : State) : s.Handles (.instr (.probe p)) (probeCommand p s) := by
  obtain ⟨-, e⟩ | ⟨-, -, e⟩ | ⟨-, -, e⟩ := probeCommand_cases p s <;> rw [e]
  · exact .answered _ _ _
  · exact .answered _ _ _
  · exact .violated _ _ nofun nofun

theorem handles_illegalFrame (why : IllegalReason) (s : State) :
    s.Handles (.illegal why) (illegalFrame why s) := by
  obtain ⟨-, e⟩ | ⟨-, e⟩ := illegalFrame_cases why s <;> rw [e]
  · exact .answered _ _ _
  · exact .violated _ _ nofun nofun

theorem handles_commandOf (i : Instr) (s : State) : s.Handles (.instr i) (commandOf i s) := by
  cases i with
  | initAuto st p => exact handles_initCommand st .auto p s
  | initPortable st p => exact handles_initCommand st .portable p s
  | initAccel st p => exact handles_initCommand st .accelerated p s
  | permute p => exact handles_permuteCommand p s
  | dispose p => exact handles_disposeCommand p s
  | probe p => exact handles_probeCommand p s

/-- A step is idle, the reset input, or the handling of one frame. -/
theorem step_handles {s t : State} (h : step s = .next t) :
    t = s ∨ (∃ rest, s.inbox = .reset :: rest ∧ t = (s.setInbox rest).applyReset) ∨
      ∃ F rest, s.inbox = .frame F :: rest ∧ (s.setInbox rest).Handles (decode F) t := by
  obtain ⟨-, rfl⟩ | hreset | ⟨F, rest, i, hq, hd, rfl⟩ | ⟨F, rest, why, hq, hd, rfl⟩ := step_cases h
  · exact .inl rfl
  · exact .inr (.inl hreset)
  · exact .inr (.inr ⟨F, rest, hq, hd ▸ handles_commandOf i _⟩)
  · exact .inr (.inr ⟨F, rest, hq, hd ▸ handles_illegalFrame why _⟩)

end Sys2Proof.Machine

/-! ## The invariant (R36) -/

namespace Sys2Proof.Machine

theorem Cause.code_injective : Function.Injective Cause.code := by
  intro c c' h
  cases c <;> cases c' <;> simp_all [Cause.code]

theorem Cause.code_ne_zero (c : Cause) : c.code ≠ 0 := by cases c <;> decide

theorem Cause.code_toNat_le (c : Cause) : c.code.toNat ≤ 4 := by cases c <;> decide

/-- The variant resolved is Accelerated only where the datapath is present, once the variant check has passed
(40_init_keyload.md R111). -/
theorem present_of_resolveVariant {accel : Bool} {v : VSel} (present : v = .accelerated → accel = true)
    (h : resolveVariant accel v = .accelerated) : accel = true := by
  cases v with
  | auto => cases accel <;> simp [resolveVariant] at h ⊢
  | portable => simp [resolveVariant] at h
  | accelerated => exact present rfl

theorem State.Inv.setInbox {s : State} (h : s.Inv) (q : List PortEvent) : (s.setInbox q).Inv := { h with }

theorem State.Inv.respond {s : State} (h : s.Inv) (c : Byte) (p : Frame) : (s.respond c p).Inv := { h with }

theorem State.Inv.clearWorking {s : State} (h : s.Inv) : s.clearWorking.Inv :=
  { h with workingClean := ⟨rfl, rfl⟩ }

theorem State.Inv.raise {s : State} (h : s.Inv) {c : Cause} (notKeyed : c = .badLifecycle → s.lifecycle ≠ .keyed)
    (absent : c = .variantUnavailable → s.accelPresent = false) : (s.raise c).Inv :=
  { h with
    faultCause := iff_of_false nofun c.code_ne_zero
    causeRange := c.code_toNat_le
    keyedCause := fun keyed hc => notKeyed (Cause.code_injective hc) keyed
    accelCause := fun present hc => by simp [absent (Cause.code_injective hc)] at present }

/-- The reset state meets the invariant, whatever was before. -/
theorem State.inv_applyReset (s : State) : s.applyReset.Inv where
  memWf := Memory.wf_applyReset s
  keyedStored := nofun
  keyedTail := nofun
  disposedZero := nofun
  createdReset _ := rfl
  modeZero _ := ⟨rfl, rfl⟩
  faultCause := by simp
  causeRange := by simp
  variantPresent := nofun
  workingClean := ⟨rfl, rfl⟩
  keyedCause := nofun
  accelCause _ := by simp [Cause.code]

theorem State.Inv.keyLoaded {s : State} (h : s.Inv) {st : Strength} {v : VSel} {p : Frame} (serving : s.fault = false)
    (length : p.length = rkBytes st) (present : v = .accelerated → s.accelPresent = true) :
    (s.keyLoaded st v p).Inv where
  memWf := State.wf_loadKey h.memWf (length ▸ rkBytes_le st)
  keyedStored _ a ha := ⟨_, s.read_loadKey p a ha⟩
  keyedTail _ a hlo ha := (s.read_loadKey p a ha).trans (by rw [List.getD_eq_default _ _ (length ▸ hlo)])
  disposedZero := nofun
  createdReset := nofun
  modeZero := fun hl => absurd rfl hl
  faultCause := h.faultCause
  causeRange := h.causeRange
  variantPresent := present_of_resolveVariant present
  workingClean := h.workingClean
  keyedCause _ hc := Cause.code_ne_zero _ (hc.symm.trans (h.faultCause.1 serving))
  accelCause := h.accelCause

theorem State.Inv.wiped {s : State} (h : s.Inv) : s.wiped.Inv where
  memWf := State.wf_wipeKey h.memWf
  keyedStored := nofun
  keyedTail := nofun
  disposedZero _ := s.read_wipeKey
  createdReset := nofun
  modeZero _ := ⟨rfl, rfl⟩
  faultCause := h.faultCause
  causeRange := h.causeRange
  variantPresent := nofun
  workingClean := ⟨rfl, rfl⟩
  keyedCause := nofun
  accelCause := h.accelCause

theorem State.Inv.handles {s t : State} {d : Decoded} (h : s.Inv) (ht : s.Handles d t) : t.Inv := by
  cases ht with
  | answered => exact h.respond _ _
  | violated _ _ notKeyed absent => exact h.raise notKeyed absent
  | keyLoaded _ _ _ serving length present => exact h.keyLoaded serving length present
  | permuted => exact h.clearWorking.respond _ _
  | wiped => exact h.wiped

/-- Settles O46: each effect a step can have keeps the invariant. -/
theorem stepKeepsInvariant : Obligations.StepKeepsInvariant := by
  intro s t h hs
  obtain rfl | ⟨rest, -, rfl⟩ | ⟨F, rest, -, ht⟩ := step_handles hs
  · exact h
  · exact State.inv_applyReset _
  · exact (h.setInbox rest).handles ht

/-- Settles O45: the invariant speaks of no free value, so it holds at reset as after any reset input. -/
theorem invariantHoldsAtReset : Obligations.InvariantHoldsAtReset :=
  { State.inv_applyReset State.reset with }

/-- A run of one step more is that step, then the rest of the run. -/
theorem run_succ_eq_next {M : Host.Core} {k : Nat} {s t : M.State} (h : M.run (k + 1) s = .next t) :
    ∃ u, M.step s = .next u ∧ M.run k u = .next t := by
  rw [Host.Core.run] at h
  split at h
  next u hu => exact ⟨u, hu, h⟩
  next => cases h
  next => cases h

/-- A property every step keeps holds wherever a run that starts with it ends. -/
theorem run_preserves {M : Host.Core} {P : M.State → Prop} (hstep : ∀ s t, P s → M.step s = .next t → P t) {k : Nat}
    {s t : M.State} (hs : P s) (hrun : M.run k s = .next t) : P t := by
  induction k generalizing s with
  | zero => cases hrun; exact hs
  | succ k ih =>
    obtain ⟨u, hu, hrest⟩ := run_succ_eq_next hrun
    exact ih (hstep s u hs hu) hrest

/-- Settles O47: the invariant holds at reset with any inputs sent, and every step of the run keeps it. -/
theorem reachableStatesMeetInvariant : Obligations.ReachableStatesMeetInvariant := fun inputs _ _ hrun =>
  run_preserves (M := Sys2Proof.core) stepKeepsInvariant (invariantHoldsAtReset.setInbox inputs) hrun

end Sys2Proof.Machine

/-! ## What a step leaves unchanged (R22, R23, R26, R33) -/

namespace Sys2Proof.Machine

/-- Handling a frame keeps the mode and the key store byte by byte, unless it is an INIT or a DISPOSE on an engine
that is not faulted. -/
theorem State.Handles.keepsKeyAndMode {s t : State} {d : Decoded} (h : s.Handles d t) :
    s.keepsKeyAndMode t ∨ (s.fault = false ∧ ∃ i, d = .instr i ∧
      ((∃ st v p, i = initInstr st v p) ∨ ∃ p, i = .dispose p)) := by
  cases h with
  | answered | violated | permuted => exact .inl ⟨rfl, rfl, rfl, fun _ => rfl, rfl, rfl⟩
  | keyLoaded st v p serving => exact .inr ⟨serving, _, rfl, .inl ⟨st, v, p, rfl⟩⟩
  | wiped serving => exact .inr ⟨serving, _, rfl, .inr ⟨_, rfl⟩⟩

/-- Settles O50: what no INIT and no DISPOSE handles keeps the key and the mode. -/
theorem onlyInitDisposeResetChangeKeyOrMode : Obligations.OnlyInitDisposeResetChangeKeyOrMode := by
  intro s t hs
  obtain rfl | ⟨rest, hq, -⟩ | ⟨F, rest, hq, ht⟩ := step_handles hs
  · exact .inl ⟨fun _ => rfl, rfl, rfl, rfl⟩
  · exact .inr (.inl ⟨rest, hq⟩)
  · obtain ⟨hlifecycle, hstrength, hvariant, hrk, -⟩ | ⟨serving, i, hd, hi⟩ := ht.keepsKeyAndMode
    · exact .inl ⟨hrk, hlifecycle, hstrength, hvariant⟩
    · exact .inr (.inr ⟨serving, F, rest, i, hq, hd, hi⟩)

theorem State.Handles.accelPresent {s t : State} {d : Decoded} (h : s.Handles d t) :
    t.accelPresent = s.accelPresent := by
  cases h <;> rfl

/-- Settles O51: no effect writes ACCEL_PRESENT. -/
theorem accelPresentNeverChanges : Obligations.AccelPresentNeverChanges := by
  intro s t hs
  obtain rfl | ⟨rest, -, rfl⟩ | ⟨F, rest, -, ht⟩ := step_handles hs
  · rfl
  · rfl
  · exact ht.accelPresent

/-- Settles O7: the fields of the state the reset input answers. -/
theorem resetInputEntersResetState : Obligations.ResetInputEntersResetState := fun s rest hq =>
  ⟨(s.setInbox rest).applyReset, step_reset_input hq, by simp [Bytes.zeros]⟩

end Sys2Proof.Machine

/-! ## A command is decoded from its encoding only (30_encoding.md R81, R86) -/

namespace Sys2Proof

/-- A header without reserved bits is put together from its three other fields. -/
theorem header_eq_headerOf {h : Word32} (hr : reservedField h = 0) :
    h = headerOf (opcField h) (strengthField h) (vselField h) := by
  conv_lhs => rw [header_fields h, hr]
  rfl

theorem payload_initInstr (st : Strength) (v : VSel) (p : Frame) : (initInstr st v p).payload = p := by
  cases v <;> rfl

theorem header_initInstr (st : Strength) (v : VSel) (p : Frame) :
    (initInstr st v p).header = headerOf 0x01 (strengthBit st) (vselBits v) := by
  cases v <;> rfl

theorem decodeBare_header {h : Word32} {i j : Instr} (hi : i.header = headerOf (opcField h) 0 0)
    (e : decodeBare h i = .instr j) : j = i ∧ i.header = h := by
  obtain ⟨hr, hv, hs, rfl⟩ := decodeBare_eq_instr e
  rw [header_eq_headerOf hr, hv, hs]
  simpa using hi

theorem decodeInit_header {h : Word32} {p : Frame} {i : Instr} (ho : opcField h = 0x01)
    (e : decodeInit h p = .instr i) : i.header = h ∧ i.payload = p := by
  obtain ⟨hr, v, hv, rfl⟩ := decodeInit_eq_instr e
  refine ⟨?_, payload_initInstr _ _ _⟩
  rw [header_initInstr, strengthBit_strengthOfBit, ← hv, ← ho, ← header_eq_headerOf hr]

theorem decodeHeader_eq_instr {h : Word32} {p : Frame} {i : Instr} (e : decodeHeader h p = .instr i) :
    i.header = h ∧ i.payload = p := by
  unfold decodeHeader at e
  split_ifs at e with hinit hpermute hdispose hprobe
  · exact decodeInit_header hinit e
  · obtain ⟨rfl, hh⟩ := decodeBare_header (by rw [hpermute]; rfl) e
    exact ⟨hh, rfl⟩
  · obtain ⟨rfl, hh⟩ := decodeBare_header (by rw [hdispose]; rfl) e
    exact ⟨hh, rfl⟩
  · obtain ⟨rfl, hh⟩ := decodeBare_header (by rw [hprobe]; rfl) e
    exact ⟨hh, rfl⟩

/-- A frame that decodes to a command is that command's encoding. -/
theorem eq_encode_of_decode {F : Frame} {i : Instr} (e : decode F = .instr i) : F = encode i := by
  match F, e with
  | b0 :: b1 :: b2 :: b3 :: p, e =>
    obtain ⟨hh, hp⟩ := decodeHeader_eq_instr e
    rw [encode, hh, hp, le32_ofLE32]
    rfl

end Sys2Proof

/-! ## The key is confined (R32, 20_memory.md R65) -/

namespace Sys2Proof.Machine

theorem State.agreeButKey_iff {s t : State} :
    s.agreeButKey t ↔ ∃ m hist, t = { s with rk := m, resetHistory := hist } :=
  ⟨fun h => ⟨_, _, h⟩, by rintro ⟨m, hist, rfl⟩; rfl⟩

section
variable {s t : State} (h : s.agreeButKey t)
include h

theorem State.agreeButKey.fault : t.fault = s.fault := by rw [h]
theorem State.agreeButKey.lifecycle : t.lifecycle = s.lifecycle := by rw [h]
theorem State.agreeButKey.accelPresent : t.accelPresent = s.accelPresent := by rw [h]
theorem State.agreeButKey.inbox : t.inbox = s.inbox := by rw [h]
theorem State.agreeButKey.outbox : t.outbox = s.outbox := by rw [h]

/-- PROBE reports no byte of the key store (30_encoding.md R91). -/
theorem State.agreeButKey.statusWord : t.statusWord = s.statusWord := by rw [h]; rfl

theorem State.agreeButKey.setInbox (q : List PortEvent) : (s.setInbox q).agreeButKey (t.setInbox q) := by
  obtain ⟨m, hist, rfl⟩ := State.agreeButKey_iff.1 h; rfl

theorem State.agreeButKey.respond (c : Byte) (p : Frame) : (s.respond c p).agreeButKey (t.respond c p) := by
  obtain ⟨m, hist, rfl⟩ := State.agreeButKey_iff.1 h; rfl

theorem State.agreeButKey.raise (c : Cause) : (s.raise c).agreeButKey (t.raise c) := by
  obtain ⟨m, hist, rfl⟩ := State.agreeButKey_iff.1 h; rfl

theorem State.agreeButKey.applyReset : s.applyReset.agreeButKey t.applyReset := by
  obtain ⟨m, hist, rfl⟩ := State.agreeButKey_iff.1 h; rfl

theorem State.agreeButKey.keyLoaded (st : Strength) (v : VSel) (p : Frame) :
    (s.keyLoaded st v p).agreeButKey (t.keyLoaded st v p) := by
  obtain ⟨m, hist, rfl⟩ := State.agreeButKey_iff.1 h; rfl

theorem State.agreeButKey.wiped : s.wiped.agreeButKey t.wiped := by
  obtain ⟨m, hist, rfl⟩ := State.agreeButKey_iff.1 h; rfl

/-- Step 2 of the dispatch looks at FAULT, which is no part of the key. -/
theorem State.agreeButKey.serve {body : State → State}
    (hbody : s.fault = false → (body s).agreeButKey (body t)) : (s.serve body).agreeButKey (t.serve body) := by
  cases hf : s.fault with
  | true =>
    rw [State.serve_faulted _ hf, State.serve_faulted _ (h.fault.trans hf)]
    exact h.respond _ _
  | false =>
    rw [State.serve_serving _ hf, State.serve_serving _ (h.fault.trans hf)]
    exact hbody hf

theorem State.agreeButKey.initCommand (st : Strength) (v : VSel) (p : Frame) :
    (initCommand st v p s).agreeButKey (initCommand st v p t) := by
  refine h.serve fun _ => ?_
  rw [h.accelPresent]
  split_ifs
  · exact h.raise _
  · exact h.raise _
  · exact h.keyLoaded st v p

/-- A PERMUTE shows the key only when it passes its checks (41_permute_portable.md R130). -/
theorem State.agreeButKey.permuteCommand {p : Frame}
    (hfails : ¬ (s.fault = false ∧ s.lifecycle = .keyed ∧ ∃ X : Block, p = X.list)) :
    (permuteCommand p s).agreeButKey (permuteCommand p t) := by
  refine h.serve fun serving => ?_
  rw [h.lifecycle]
  split_ifs with hl
  · exact h.raise _
  · cases hb : blockOperand p with
    | none => exact h.raise _
    | some X => exact absurd ⟨serving, not_not.1 hl, X, blockOperand_eq_some hb⟩ hfails

theorem State.agreeButKey.disposeCommand (p : Frame) :
    (disposeCommand p s).agreeButKey (disposeCommand p t) := by
  refine h.serve fun _ => ?_
  rw [h.lifecycle]
  split_ifs
  · exact h.raise _
  · exact h.raise _
  · exact h.wiped

theorem State.agreeButKey.probeCommand (p : Frame) : (probeCommand p s).agreeButKey (probeCommand p t) := by
  unfold Machine.probeCommand
  rw [h.statusWord]
  split_ifs
  · exact h.respond _ _
  · exact h.serve fun _ => h.raise _

theorem State.agreeButKey.illegalFrame (why : IllegalReason) :
    (illegalFrame why s).agreeButKey (illegalFrame why t) :=
  h.serve fun _ => h.raise _

theorem State.agreeButKey.commandOf {i : Instr}
    (hfails : ¬ (s.fault = false ∧ s.lifecycle = .keyed ∧ ∃ X : Block, i = .permute X.list)) :
    (commandOf i s).agreeButKey (commandOf i t) := by
  cases i with
  | initAuto st p => exact h.initCommand st .auto p
  | initPortable st p => exact h.initCommand st .portable p
  | initAccel st p => exact h.initCommand st .accelerated p
  | permute p => exact h.permuteCommand (by simpa using hfails)
  | dispose p => exact h.disposeCommand p
  | probe p => exact h.probeCommand p

end

/-- Settles O49: every operation but the datapath's run takes states that agree but for the key to such states, and a
frame that decodes to a PERMUTE is its encoding, so the datapath runs only where `permuteNext` says. -/
theorem keyMaterialIsConfined : Obligations.KeyMaterialIsConfined := by
  intro s s' h hno
  suffices ∃ t t', step s = .next t ∧ step s' = .next t' ∧ t.agreeButKey t' by
    obtain ⟨t, t', ht, ht', hagree⟩ := this
    exact ⟨t, t', ht, ht', hagree, hagree.outbox.symm⟩
  match hq : s.inbox with
  | [] => exact ⟨s, s', by simp [step, hq], by simp [step, h.inbox, hq], h⟩
  | .reset :: rest =>
    exact ⟨_, _, step_reset_input hq, step_reset_input (h.inbox.trans hq), (h.setInbox rest).applyReset⟩
  | .frame F :: rest =>
    cases hd : decode F with
    | illegal why =>
      exact ⟨_, _, step_illegal_frame hq hd, step_illegal_frame (h.inbox.trans hq) hd,
        (h.setInbox rest).illegalFrame why⟩
    | instr i =>
      refine ⟨_, _, step_instr_frame hq hd, step_instr_frame (h.inbox.trans hq) hd, (h.setInbox rest).commandOf ?_⟩
      rintro ⟨serving, keyed, X, rfl⟩
      exact hno ⟨serving, keyed, X, rest, by rw [hq, eq_encode_of_decode hd]⟩

end Sys2Proof.Machine

/-! # The key store's rules (20_memory.md): what a step runs, where the round keys lie, which key a PERMUTE uses -/

namespace Sys2Proof.Machine

/-- Settles O5: what a step makes of a frame that decodes is the command behind the arm of `exec`. -/
theorem stepRunsDecodedCommand : Obligations.StepRunsDecodedCommand := fun s _ rest i hq hd =>
  (step_instr_frame hq hd).trans (exec_eq_commandOf i (s.setInbox rest)).symm

/-- Settles O24: each of the three is a round key's byte at an index below 32. -/
theorem roundKeysAreStoreSlices : Obligations.RoundKeysAreStoreSlices := by
  refine fun s A r => ⟨fun i hi => ?_, fun i hi => ?_, fun i hi => ?_⟩
  · rw [addRoundKey, Bytes.get_xor _ _ _ hi, s.roundKey_get r i hi]
  · rw [laneKey0, lane0_get _ _ hi, s.roundKey_get r i (by omega)]
    congr 1; omega
  · rw [laneKey1, lane1_get _ _ hi, s.roundKey_get r (16 + i) (by omega)]
    congr 1; omega

end Sys2Proof.Machine

/-! ## Commands that pass their checks -/

namespace Sys2Proof.Machine

theorem exec_initInstr (st : Strength) (v : VSel) (p : Frame) (s : State) :
    exec (initInstr st v p) s = .next (initCommand st v p s) := by
  cases v <;> rfl

/-- An INIT that passes its checks loads its key (40_init_keyload.md R110). -/
theorem exec_initInstr_serving {s : State} {st : Strength} {v : VSel} {p : Frame} (serving : s.fault = false)
    (length : p.length = rkBytes st) (present : v = .accelerated → s.accelPresent = true) :
    exec (initInstr st v p) s = .next (s.keyLoaded st v p) := by
  have hvariant : ¬ (v = .accelerated ∧ s.accelPresent = false) := fun ⟨hv, hp⟩ => by simp [present hv] at hp
  rw [exec_initInstr, initCommand, State.serve_serving _ serving, (isKeyMaterial_iff st p).2 length,
    if_neg Bool.noConfusion, if_neg hvariant]

/-- A PERMUTE that passes its checks runs the datapath (41_permute_portable.md R130). -/
theorem exec_permute_keyed {s : State} (X : Block) (serving : s.fault = false) (keyed : s.lifecycle = .keyed) :
    exec (.permute X.list) s = .next (s.permuted X) := by
  rw [exec_eq_commandOf, commandOf, permuteCommand, State.serve_serving _ serving, if_neg (not_not.2 keyed),
    blockOperand_list]

/-- PERMUTE writes nothing the datapath reads: the key, STRENGTH and VARIANT are kept. -/
theorem State.datapath_permuted (s : State) (X Y : Block) : (s.permuted X).datapath Y = s.datapath Y := rfl

/-- What the answer to a PERMUTE adds to the responses. -/
theorem State.permuted_outbox (s : State) (X : Block) :
    (s.permuted X).outbox = s.outbox ++ [responseFrame okCode (s.datapath X).w.list] := rfl

/-- Settles O26: the first PERMUTE keeps what the datapath reads and leaves the working registers clean, which the
second finds and leaves so. -/
theorem repeatedPermuteAnswersTheSame : Obligations.RepeatedPermuteAnswersTheSame := by
  intro s X serving keyed
  refine ⟨s.permuted X, (s.permuted X).permuted X, responseFrame okCode (s.datapath X).w.list,
    exec_permute_keyed X serving keyed, exec_permute_keyed X serving keyed, s.permuted_outbox X, ?_, rfl⟩
  rw [State.permuted_outbox, State.datapath_permuted, State.permuted_outbox, List.append_assoc]
  rfl

end Sys2Proof.Machine

/-! ## The portable datapath runs Perm (41_permute_portable.md R131, R142) -/

namespace Sys2Proof.Machine

/-- Full rounds over the working registers are those of Perm, the first with the round key after RND. -/
theorem repeatRound_portableRound (k : Nat → Block) (count : Nat) (d : Datapath) :
    repeatRound (portableRound k) count d =
      { w := permRounds k count (d.rnd + 1) d.w, rnd := d.rnd + count } := by
  induction count generalizing d with
  | zero => rfl
  | succ count ih =>
    rw [repeatRound, ih, permRounds, Nat.add_comm count 1, ← Nat.add_assoc]
    rfl

theorem permPortable_eq_perm (k : Nat → Block) {n : Nat} (X : Block) (hn : 1 ≤ n) :
    permPortable k n X = { w := perm k n X, rnd := n } := by
  rw [permPortable_eq, repeatRound_portableRound, portableLastRound, perm, Nat.zero_add, Nat.zero_add,
    Nat.sub_add_cancel hn]

end Sys2Proof.Machine

/-! ## The lanes run the wide rounds (42_permute_accelerated.md R170 to R176) -/

namespace Sys2Proof.Machine

theorem joinLanes_get (L0 L1 : Lane) (i : Nat) :
    (joinLanes L0 L1).get i = if i < 16 then L0.get i else L1.get (i - 16) := by
  simp only [Bytes.get, joinLanes, List.getD_eq_getElem?_getD, List.getElem?_append, L0.len]
  split <;> rfl

theorem blend_get (A B : Lane) {j : Nat} (h : j < 16) :
    (blend A B).get j = if constants.blendMask.getD j false then B.get j else A.get j :=
  Bytes.get_build _ _ _ h

theorem shuffle_get (A : Lane) {j : Nat} (h : j < 16) :
    (shuffle A).get j = A.get (constants.shufIdx.getD j 0) :=
  Bytes.get_build _ _ _ h

/-- Blend, shuffle and the lanes' own row shift make up the row shift of the wide block (R176), byte by byte: both
sides move one byte of `W` to each place. -/
theorem joinLanes_shiftRows4_shuffle_blend (W : Block) :
    joinLanes (shiftRows4 (shuffle (blend (lane0 W) (lane1 W)))) (shiftRows4 (shuffle (blend (lane1 W) (lane0 W)))) =
      shiftRows W := by
  refine Bytes.ext_get fun i hi => ?_
  rw [joinLanes_get, shiftRows, rotateRows_get _ _ _ _ hi]
  interval_cases i <;> simp [shiftRows4, shuffle_get, blend_get, constants, shift]

theorem subBytes_shiftRows (A : Block) : subBytes (shiftRows A) = shiftRows (subBytes A) := by
  refine Bytes.ext_get fun i hi => ?_
  have hsource : 4 * ((i / 4 + shift (i % 4)) % 8) + i % 4 < 32 := by omega
  rw [shiftRows, shiftRows, subBytes_get _ _ hi, rotateRows_get _ _ _ _ hi, rotateRows_get _ _ _ _ hi,
    subBytes_get _ _ hsource]

theorem subBytes_joinLanes (L0 L1 : Lane) : subBytes (joinLanes L0 L1) = joinLanes (subBytes L0) (subBytes L1) := by
  simp [subBytes, joinLanes]

theorem xor_joinLanes (L0 L1 K0 K1 : Lane) :
    (joinLanes L0 L1).xor (joinLanes K0 K1) = joinLanes (L0.xor K0) (L1.xor K1) := by
  simp [Bytes.xor, joinLanes, List.zipWith_append, L0.len, K0.len]

/-- Whole columns are mixed apart from what follows them (41_permute_portable.md R138). -/
theorem mixList_append : ∀ A B : Frame, 4 ∣ A.length → mixList (A ++ B) = mixList A ++ mixList B
  | a0 :: a1 :: a2 :: a3 :: A, B, h => by
    have hA : 4 ∣ A.length := by simp at h; omega
    simp [mixList, mixList_append A B hA]
  | [], _, _ => rfl
  | [_], _, h | [_, _], _, h | [_, _, _], _, h => by simp at h

theorem mixColumns_joinLanes (L0 L1 : Lane) :
    mixColumns (joinLanes L0 L1) = joinLanes (mixColumns L0) (mixColumns L1) := by
  simp [mixColumns, joinLanes, mixList_append _ _ (show 4 ∣ L0.list.length by rw [L0.len]; decide)]

theorem joinLanes_laneKeys (k : Nat → Block) (r : Nat) : joinLanes (laneKey0 k r) (laneKey1 k r) = k r :=
  joinLanes_lanes (k r)

/-- The substitution of the cross-mixed and shifted lanes is that of the wide block, which commutes with the row
shift. -/
theorem joinLanes_subBytes_shiftRows4 (W : Block) :
    joinLanes (subBytes (shiftRows4 (shuffle (blend (lane0 W) (lane1 W)))))
      (subBytes (shiftRows4 (shuffle (blend (lane1 W) (lane0 W))))) = shiftRows (subBytes W) := by
  rw [← subBytes_joinLanes, joinLanes_shiftRows4_shuffle_blend, subBytes_shiftRows]

theorem laneRound_halfRound (k : Nat → Block) : laneRound halfRound k = portableRound k := by
  funext d
  simp only [laneRound, halfRound, portableRound, addRoundKey]
  rw [← xor_joinLanes, ← mixColumns_joinLanes, joinLanes_subBytes_shiftRows4, joinLanes_laneKeys]

theorem laneRound_halfRoundLast (k : Nat → Block) : laneRound halfRoundLast k = portableLastRound k := by
  funext d
  simp only [laneRound, halfRoundLast, portableLastRound, addRoundKey]
  rw [← xor_joinLanes, joinLanes_subBytes_shiftRows4, joinLanes_laneKeys]

/-- The two datapaths leave the same working registers. -/
theorem permAccel_eq_permPortable (k : Nat → Block) (n : Nat) (X : Block) : permAccel k n X = permPortable k n X := by
  rw [permAccel, laneRound_halfRound, laneRound_halfRoundLast, ← xor_joinLanes, joinLanes_lanes, joinLanes_laneKeys,
    permPortable_eq, addRoundKey]

end Sys2Proof.Machine

/-! ## The key a PERMUTE uses (20_memory.md R58) -/

namespace Sys2Proof.Machine

theorem rounds_eq_roundCount (st : Strength) : rounds st = roundCount st := by cases st <;> rfl

theorem rkBytes_eq_materialLength (st : Strength) : rkBytes st = materialLength st := by cases st <;> rfl

theorem one_le_rounds (st : Strength) : 1 ≤ rounds st := by cases st <;> decide

/-- Either variant answers Perm under the round keys in the store (41_permute_portable.md R130). -/
theorem State.datapath_w (s : State) (X : Block) :
    (s.datapath X).w = perm s.roundKey (rounds s.strength) X := by
  have hportable := permPortable_eq_perm s.roundKey X (one_le_rounds s.strength)
  cases hv : s.variant with
  | portable => simp [State.datapath, hv, hportable]
  | accelerated => simp [State.datapath, hv, permAccel_eq_permPortable, hportable]

/-- The full rounds use the round keys from the first one's on, one each. -/
theorem permRounds_congr {k k' : Nat → Block} {count r : Nat} (A : Block)
    (h : ∀ j, r ≤ j → j < r + count → k j = k' j) : permRounds k count r A = permRounds k' count r A := by
  induction count generalizing r A with
  | zero => rfl
  | succ count ih =>
    rw [permRounds, permRounds, addRoundKey, addRoundKey, h r (by omega) (by omega)]
    exact ih _ fun j hj hj' => h j (by omega) (by omega)

/-- `Perm` with `n` rounds uses the round keys 0 to `n` and no other (R131). -/
theorem perm_congr {k k' : Nat → Block} {n : Nat} (X : Block) (h : ∀ r, r ≤ n → k r = k' r) :
    perm k n X = perm k' n X := by
  simp only [perm, addRoundKey]
  rw [h 0 (by omega), h n (by omega), permRounds_congr _ fun j _ hj => h j (by omega)]

/-- After an INIT the round keys of its strength are the slices of its payload (40_init_keyload.md R110). -/
theorem State.roundKey_keyLoaded (s : State) (st : Strength) (v : VSel) (p : Frame) {r : Nat} (h : r ≤ rounds st) :
    (s.keyLoaded st v p).roundKey r = keyOfPayload p r := by
  refine Bytes.ext_get fun i hi => ?_
  have hbytes : 32 * r + i < rkBytes st := by simp only [rkBytes, blockBytes]; omega
  have hread : Memory.read (s.keyLoaded st v p).rk (32 * r + i) = some (p.getD (32 * r + i) 0) :=
    s.read_loadKey p _ (Nat.lt_of_lt_of_le hbytes (rkBytes_le st))
  rw [State.roundKey_get _ _ _ hi, State.rkByte_of_read hread, keyOfPayload, Bytes.get_build _ _ _ hi]

/-- The datapath right after an INIT. -/
theorem State.datapath_keyLoaded_w (s : State) (st : Strength) (v : VSel) (p : Frame) (X : Block) :
    ((s.keyLoaded st v p).datapath X).w = perm (keyOfPayload p) (rounds st) X :=
  (State.datapath_w _ X).trans (perm_congr X fun _ hr => s.roundKey_keyLoaded st v p hr)

/-- Settles O25: the INIT leaves a Keyed engine that is not faulted, whose round keys are the payload's. -/
theorem permuteUsesKeyJustLoaded : Obligations.PermuteUsesKeyJustLoaded := by
  intro s v st p X serving present length
  refine ⟨s.keyLoaded st v p, (s.keyLoaded st v p).permuted X,
    exec_initInstr_serving serving (length.trans (rkBytes_eq_materialLength st).symm) present,
    exec_permute_keyed X serving rfl, ?_⟩
  rw [State.permuted_outbox, State.datapath_keyLoaded_w, rounds_eq_roundCount, responseFrame_eq, State.keyLoaded_eq,
    State.respond_outbox, responseFrame_eq, List.append_assoc]
  rfl

end Sys2Proof.Machine

/-! # The encoding's rules (30_encoding.md): decode and encode are inverse, the Illegal frames, the opcode table,
the response format -/

/-! ## A command's encoding decodes to it (R81, R86) -/

namespace Sys2Proof

@[simp] theorem strengthOfBit_strengthBit (st : Strength) : strengthOfBit (strengthBit st) = st := by cases st <;> rfl

@[simp] theorem vselOfBits_vselBits (v : VSel) : vselOfBits (vselBits v) = some v := by cases v <;> rfl

/-- An INIT is read back from the fields of its header (R81). -/
theorem decodeHeader_headerOf_init (st : Strength) (v : VSel) (p : Frame) :
    decodeHeader (headerOf 0x01 (strengthBit st) (vselBits v)) p = .instr (initInstr st v p) := by
  simp [decodeHeader, decodeInit]

/-- The decoder reads a command back from its header and its payload. -/
theorem decodeHeader_header (i : Instr) : decodeHeader i.header i.payload = .instr i := by
  cases i with
  | initAuto st p => exact decodeHeader_headerOf_init st .auto p
  | initPortable st p => exact decodeHeader_headerOf_init st .portable p
  | initAccel st p => exact decodeHeader_headerOf_init st .accelerated p
  | permute p | dispose p | probe p => simp [decodeHeader, decodeBare, Instr.header, Instr.payload]

theorem decode_encode (i : Instr) : decode (encode i) = .instr i :=
  (decode_le32 _ _).trans (decodeHeader_header i)

/-- Settles O2: `eq_encode_of_decode` and `decode_encode`, one for each direction. -/
theorem decodeInvertsEncode : Obligations.DecodeInvertsEncode := fun _ i =>
  ⟨eq_encode_of_decode, fun e => e ▸ decode_encode i⟩

/-- Settles O1: nine of the frames are the encodings of their commands, and VSEL = 3 is reserved. -/
theorem sampleFramesDecode : Obligations.SampleFramesDecode :=
  ⟨decode_encode (.probe []), decode_encode (.dispose []), decode_encode (.permute (zeros 32)),
    decode_encode (.initAuto .strength256 (zeros 4)), decode_encode (.initAuto .strength512 (zeros 4)),
    decode_encode (.initPortable .strength256 (zeros 4)), decode_encode (.initPortable .strength512 (zeros 4)),
    decode_encode (.initAccel .strength256 (zeros 4)), decode_encode (.initAccel .strength512 (zeros 4)),
    ⟨.reservedVsel, rfl⟩, ⟨.reservedVsel, rfl⟩⟩

end Sys2Proof

/-! ## The opcode table (R90) -/

namespace Sys2Proof

/-- A header fits the row of the command it is the header of. -/
theorem header_fits_row (i : Instr) : Laws.TableRowFits.Statement i := by
  cases i with
  | initAuto st p => exact Laws.TableRowFits.initAuto st p
  | initPortable st p => exact Laws.TableRowFits.initPortable st p
  | initAccel st p => exact Laws.TableRowFits.initAccel st p
  | permute p => exact Laws.TableRowFits.permute p
  | dispose p => exact Laws.TableRowFits.dispose p
  | probe p => exact Laws.TableRowFits.probe p

theorem TableRow.fits_iff (row : TableRow) (h : Word32) : row.fits h = true ↔ h &&& row.mask = row.pattern :=
  beq_iff_eq

/-- A header that fits two rows makes the patterns agree wherever both masks look. -/
theorem TableRow.patterns_agree_of_fits {row row' : TableRow} {h : Word32} (hf : row.fits h = true)
    (hf' : row'.fits h = true) : row.pattern &&& row'.mask = row'.pattern &&& row.mask := by
  rw [TableRow.fits_iff] at hf hf'
  rw [← hf, ← hf', BitVec.and_assoc, BitVec.and_assoc, BitVec.and_comm row.mask]

theorem opcodeTable_eq_of_patterns_agree : ∀ row ∈ opcodeTable, ∀ row' ∈ opcodeTable,
    row.pattern &&& row'.mask = row'.pattern &&& row.mask → row = row' := by decide

/-- The mask of the INIT rows leaves out the STRENGTH bit only, so what fits one is an INIT header of that selector. -/
theorem eq_headerOf_of_init_mask {h : Word32} {v : VSel} (e : h &&& 0xFFFFFEFF = headerOf 0x01 0 (vselBits v)) :
    ∃ st, h = headerOf 0x01 (strengthBit st) (vselBits v) := by
  have hsplit : h = (h &&& 0xFFFFFEFF) ||| (h &&& BitVec.twoPow 32 8) := by
    rw [← BitVec.and_or_distrib_left]
    exact BitVec.and_allOnes.symm
  rw [e, BitVec.and_twoPow] at hsplit
  split at hsplit
  · exact ⟨.strength512, hsplit.trans (by cases v <;> rfl)⟩
  · exact ⟨.strength256, hsplit.trans (by cases v <;> rfl)⟩

/-- A header that fits a row decodes, whatever the payload. -/
theorem decodeHeader_of_fits {row : TableRow} (hrow : row ∈ opcodeTable) {h : Word32} (hf : row.fits h = true)
    (p : Frame) : ∃ i, decodeHeader h p = .instr i := by
  have init (v : VSel) (e : h &&& 0xFFFFFEFF = headerOf 0x01 0 (vselBits v)) :
      ∃ i, decodeHeader h p = .instr i := by
    obtain ⟨st, rfl⟩ := eq_headerOf_of_init_mask e
    exact ⟨_, decodeHeader_headerOf_init st v p⟩
  have bare (i : Instr) (hp : i.payload = p) (e : h &&& 0xFFFFFFFF = i.header) :
      ∃ i, decodeHeader h p = .instr i := by
    rw [show h = i.header from BitVec.and_allOnes.symm.trans e, ← hp]
    exact ⟨i, decodeHeader_header i⟩
  rw [TableRow.fits_iff] at hf
  simp only [opcodeTable, List.mem_cons, List.not_mem_nil, or_false] at hrow
  obtain rfl | rfl | rfl | rfl | rfl | rfl := hrow
  · exact init .auto hf
  · exact init .portable hf
  · exact init .accelerated hf
  · exact bare (.permute p) rfl hf
  · exact bare (.dispose p) rfl hf
  · exact bare (.probe p) rfl hf

theorem fits_row_of_decodeHeader {h : Word32} {p : Frame} {i : Instr} (e : decodeHeader h p = .instr i) :
    ∃ row ∈ opcodeTable, row.mnemonic = i.mnemonic ∧ row.fits h = true :=
  (decodeHeader_eq_instr e).1 ▸ header_fits_row i

/-- Settles O4: what decodes is a command's header, and what fits a row is one. -/
theorem opcodeTableClassifiesHeaders : Obligations.OpcodeTableClassifiesHeaders := by
  refine ⟨fun _ _ _ _ _ _ e => fits_row_of_decodeHeader e, fun _ row hrow row' hrow' hf hf' =>
    opcodeTable_eq_of_patterns_agree row hrow row' hrow' (TableRow.patterns_agree_of_fits hf hf'),
    fun b0 b1 b2 b3 p => ⟨fun ⟨why, hillegal⟩ row hrow => ?_, fun hnone => ?_⟩⟩
  · refine Bool.eq_false_iff.2 fun hf => ?_
    obtain ⟨i, hi⟩ := decodeHeader_of_fits hrow hf p
    exact Decoded.noConfusion (hi.symm.trans hillegal)
  · cases hd : decode (b0 :: b1 :: b2 :: b3 :: p) with
    | illegal why => exact ⟨why, rfl⟩
    | instr i =>
      obtain ⟨row, hrow, -, hf⟩ := fits_row_of_decodeHeader hd
      exact absurd hf (by simp [hnone row hrow])

end Sys2Proof

/-! ## The header's fields as numbers, and the Illegal frames (R81, R87) -/

namespace Sys2Proof

open Sys2Proof.Machine

/-- Fields put together add up, each at its place value. -/
theorem toNat_append_eq_add {m n : Nat} (x : BitVec m) (y : BitVec n) :
    (x ++ y).toNat = x.toNat * 2 ^ n + y.toNat := by
  rw [BitVec.toNat_append, ← Nat.shiftLeft_add_eq_or_of_lt y.isLt, Nat.shiftLeft_eq]

theorem toNat_ofLE32 (b0 b1 b2 b3 : Byte) : (ofLE32 b0 b1 b2 b3).toNat = natOfBytes [b0, b1, b2, b3] := by
  simp only [ofLE32, toNat_append_eq_add, natOfBytes]
  omega

theorem opcField_toNat (h : Word32) : (opcField h).toNat = h.toNat % 256 := by
  simp [opcField]

theorem strengthField_toNat (h : Word32) : (strengthField h).toNat = h.toNat / 256 % 2 := by
  simp [strengthField, Nat.shiftRight_eq_div_pow]

theorem vselField_toNat (h : Word32) : (vselField h).toNat = h.toNat / 512 % 4 := by
  simp [vselField, Nat.shiftRight_eq_div_pow]

theorem reservedField_toNat (h : Word32) : (reservedField h).toNat = h.toNat / 2048 := by
  have := h.isLt
  simp only [reservedField, BitVec.extractLsb'_toNat, Nat.shiftRight_eq_div_pow]
  omega

theorem reservedField_ne_zero_iff (h : Word32) : reservedField h ≠ 0 ↔ h.toNat / 2048 ≠ 0 := by
  rw [Ne, ← BitVec.toNat_inj, reservedField_toNat]; rfl

theorem vselOfBits_eq_none_iff (v : BitVec 2) : vselOfBits v = none ↔ v.toNat = 3 := by revert v; decide

/-- A header of PERMUTE, DISPOSE or PROBE is Illegal when a bit above OPC is set. -/
theorem decodeBare_illegal_iff (h : Word32) (i : Instr) :
    (∃ why, decodeBare h i = .illegal why) ↔ h.toNat / 2048 ≠ 0 ∨ h.toNat / 256 % 8 ≠ 0 := by
  have hfields : vselField h ≠ 0 ∨ strengthField h ≠ 0 ↔ h.toNat / 256 % 8 ≠ 0 := by
    simp only [Ne, BitVec.ofNat_eq_ofNat, ← BitVec.toNat_inj, vselField_toNat, strengthField_toNat,
      BitVec.toNat_ofNat]
    omega
  rw [← reservedField_ne_zero_iff, ← hfields, decodeBare]
  split_ifs with hr hf
  · exact iff_of_true ⟨_, rfl⟩ (.inl hr)
  · exact iff_of_true ⟨_, rfl⟩ (.inr hf)
  · exact iff_of_false nofun (not_or.2 ⟨hr, hf⟩)

/-- A header of INIT is Illegal when a reserved bit is set or VSEL is 3. -/
theorem decodeInit_illegal_iff (h : Word32) (p : Frame) :
    (∃ why, decodeInit h p = .illegal why) ↔ h.toNat / 2048 ≠ 0 ∨ h.toNat / 512 % 4 = 3 := by
  rw [← reservedField_ne_zero_iff, ← vselField_toNat, ← vselOfBits_eq_none_iff, decodeInit]
  split_ifs with hr
  · exact iff_of_true ⟨_, rfl⟩ (.inl hr)
  · cases vselOfBits (vselField h) with
    | some v => exact iff_of_false nofun (by simpa using hr)
    | none => exact iff_of_true ⟨_, rfl⟩ (.inr rfl)

/-- The Illegal headers of R87, by the number the header is. -/
theorem decodeHeader_illegal_iff (h : Word32) (p : Frame) :
    (∃ why, decodeHeader h p = .illegal why) ↔
      h.toNat % 256 = 0 ∨ 5 ≤ h.toNat % 256 ∨ h.toNat / 2048 ≠ 0 ∨
        (2 ≤ h.toNat % 256 ∧ h.toNat % 256 ≤ 4 ∧ h.toNat / 256 % 8 ≠ 0) ∨
        (h.toNat % 256 = 1 ∧ h.toNat / 512 % 4 = 3) := by
  unfold decodeHeader
  simp only [BitVec.ofNat_eq_ofNat, ← BitVec.toNat_inj, opcField_toNat, BitVec.toNat_ofNat]
  split_ifs with hinit hpermute hdispose hprobe
  · rw [decodeInit_illegal_iff]; omega
  · rw [decodeBare_illegal_iff]; omega
  · rw [decodeBare_illegal_iff]; omega
  · rw [decodeBare_illegal_iff]; omega
  · exact iff_of_true ⟨_, rfl⟩ (by omega)

/-- The Illegal frames of R87. -/
theorem decode_illegal_iff (F : Frame) : (∃ why, decode F = .illegal why) ↔
    F.length < 4 ∨
    (let H := natOfBytes (F.take 4)
     H % 256 = 0 ∨ 5 ≤ H % 256 ∨ H / 2048 ≠ 0 ∨
       (2 ≤ H % 256 ∧ H % 256 ≤ 4 ∧ H / 256 % 8 ≠ 0) ∨ (H % 256 = 1 ∧ H / 512 % 4 = 3)) := by
  match F with
  | b0 :: b1 :: b2 :: b3 :: p =>
    have hlength : ¬ (b0 :: b1 :: b2 :: b3 :: p).length < 4 := by simp
    rw [or_iff_right hlength, decode, decodeHeader_illegal_iff, toNat_ofLE32]
    rfl
  | [] | [_] | [_, _] | [_, _, _] => simp [decode]

end Sys2Proof

namespace Sys2Proof.Machine

theorem State.raise_eq_violated (s : State) (c : Cause) : s.raise c = s.violated c.code := by
  rw [State.raise_eq, responseFrame_eq]; rfl

/-- Settles O3: the list is `decode_illegal_iff`, the step is the fault entry with cause 1. -/
theorem illegalFramesAreTheListedOnes : Obligations.IllegalFramesAreTheListedOnes := by
  refine ⟨decode_illegal_iff, fun s F rest why hq hd serving => ?_⟩
  rw [step_illegal_frame hq hd, illegalFrame, State.serve_serving (s := s.setInbox rest) _ serving,
    State.raise_eq_violated]
  rfl

end Sys2Proof.Machine

/-! ## The status word (R91) -/

namespace Sys2Proof.Machine

theorem toNat_lifecycleBits (l : Lifecycle) : (lifecycleBits l).toNat = lifecycleNumber l := by cases l <;> rfl

theorem toNat_strengthStateBit (st : Strength) : (strengthStateBit st).toNat = strengthNumber st := by cases st <;> rfl

theorem toNat_variantBit (v : Variant) : (variantBit v).toNat = variantNumber v := by cases v <;> rfl

/-- The fields of the status word lie where the sum of R91 puts them. -/
theorem State.toNat_statusWord (s : State) : s.statusWord.toNat = s.statusNumber := by
  simp only [State.statusWord, State.statusNumber, toNat_append_eq_add, toNat_lifecycleBits, toNat_strengthStateBit,
    toNat_variantBit, BitVec.toNat_ofBool, BitVec.ofNat_eq_ofNat, BitVec.toNat_ofNat]
  omega

theorem State.ofNat_statusNumber (s : State) : BitVec.ofNat 32 s.statusNumber = s.statusWord := by
  rw [← State.toNat_statusWord, BitVec.ofNat_toNat, BitVec.setWidth_eq]

/-- Settles O37: PROBE without a payload asks for no check, and its word is the sum of R91. -/
theorem probeReportsStatusWord : Obligations.ProbeReportsStatusWord := fun s => by
  rw [State.ofNat_statusNumber, exec_eq_commandOf]
  rfl

end Sys2Proof.Machine

/-! ## The response format (R80, R84) -/

namespace Sys2Proof.Machine

/-- The length of the payload of the response to a command that was executed (R84). -/
def okPayloadLength : Instr → Nat
  | .permute _ => 32
  | .probe _ => 4
  | .initAuto _ _ => 0
  | .initPortable _ _ => 0
  | .initAccel _ _ => 0
  | .dispose _ => 0

/-- `t` takes over the inputs of `s` and has one response more, of a format R84 allows as the answer to a frame that
decodes to `d`: a code from 1 to 5 alone, or code 0 with the payload of the command executed. -/
inductive State.Answers (s : State) (d : Decoded) (t : State) : Prop
  | rejected (c : Byte) (nonzero : c ≠ 0) (le : c.toNat ≤ 5) (inbox : t.inbox = s.inbox)
      (outbox : t.outbox = s.outbox ++ [responseFrame c []])
  | executed (i : Instr) (p : Frame) (decoded : d = .instr i) (length : p.length = okPayloadLength i)
      (inbox : t.inbox = s.inbox) (outbox : t.outbox = s.outbox ++ [responseFrame okCode p])

theorem answers_engineFaulted (s : State) (d : Decoded) : s.Answers d (s.respond engineFaultedCode []) :=
  .rejected engineFaultedCode (by decide) (by decide) rfl rfl

theorem answers_raise (s : State) (d : Decoded) (c : Cause) : s.Answers d (s.raise c) :=
  .rejected c.code c.code_ne_zero (c.code_toNat_le.trans (by decide)) rfl rfl

theorem okPayloadLength_initInstr (st : Strength) (v : VSel) (p : Frame) : okPayloadLength (initInstr st v p) = 0 := by
  cases v <;> rfl

theorem answers_initCommand (st : Strength) (v : VSel) (p : Frame) (s : State) :
    s.Answers (.instr (initInstr st v p)) (initCommand st v p s) := by
  obtain ⟨-, e⟩ | ⟨-, -, e⟩ | ⟨-, -, -, -, e⟩ | ⟨-, -, -, e⟩ := initCommand_cases st v p s <;> rw [e]
  · exact answers_engineFaulted s _
  · exact answers_raise s _ _
  · exact answers_raise s _ _
  · exact .executed _ [] rfl (okPayloadLength_initInstr st v p).symm rfl rfl

theorem answers_permuteCommand (p : Frame) (s : State) :
    s.Answers (.instr (.permute p)) (permuteCommand p s) := by
  obtain ⟨-, e⟩ | ⟨-, -, e⟩ | ⟨-, -, -, e⟩ | ⟨-, -, X, -, e⟩ := permuteCommand_cases p s <;> rw [e]
  · exact answers_engineFaulted s _
  · exact answers_raise s _ _
  · exact answers_raise s _ _
  · exact .executed _ (s.datapath X).w.list rfl (s.datapath X).w.len rfl (s.permuted_outbox X)

theorem answers_disposeCommand (p : Frame) (s : State) :
    s.Answers (.instr (.dispose p)) (disposeCommand p s) := by
  obtain ⟨-, e⟩ | ⟨-, -, e⟩ | ⟨-, -, -, e⟩ | ⟨-, -, -, e⟩ := disposeCommand_cases p s <;> rw [e]
  · exact answers_engineFaulted s _
  · exact answers_raise s _ _
  · exact answers_raise s _ _
  · exact .executed _ [] rfl rfl rfl rfl

theorem answers_probeCommand (p : Frame) (s : State) : s.Answers (.instr (.probe p)) (probeCommand p s) := by
  obtain ⟨-, e⟩ | ⟨-, -, e⟩ | ⟨-, -, e⟩ := probeCommand_cases p s <;> rw [e]
  · exact .executed _ (le32 s.statusWord) rfl (le32_length _) rfl rfl
  · exact answers_engineFaulted s _
  · exact answers_raise s _ _

theorem answers_illegalFrame (why : IllegalReason) (s : State) : s.Answers (.illegal why) (illegalFrame why s) := by
  obtain ⟨-, e⟩ | ⟨-, e⟩ := illegalFrame_cases why s <;> rw [e]
  · exact answers_engineFaulted s _
  · exact answers_raise s _ _

theorem answers_commandOf (i : Instr) (s : State) : s.Answers (.instr i) (commandOf i s) := by
  cases i with
  | initAuto st p => exact answers_initCommand st .auto p s
  | initPortable st p => exact answers_initCommand st .portable p s
  | initAccel st p => exact answers_initCommand st .accelerated p s
  | permute p => exact answers_permuteCommand p s
  | dispose p => exact answers_disposeCommand p s
  | probe p => exact answers_probeCommand p s

/-- A step at a frame answers it once. -/
theorem step_answers {s t : State} {F : Frame} {rest : List PortEvent} (hq : s.inbox = .frame F :: rest)
    (hs : step s = .next t) : (s.setInbox rest).Answers (decode F) t := by
  cases hd : decode F with
  | instr i =>
    rw [step_instr_frame hq hd, Host.Outcome.next.injEq] at hs
    exact hs ▸ answers_commandOf i _
  | illegal why =>
    rw [step_illegal_frame hq hd, Host.Outcome.next.injEq] at hs
    exact hs ▸ answers_illegalFrame why _

/-- Settles O43: the two formats of `State.Answers`. -/
theorem responseFormatIsLegal : Obligations.ResponseFormatIsLegal := by
  intro s t F rest hq hs
  obtain ⟨c, nonzero, le, inbox, outbox⟩ | ⟨i, p, decoded, length, inbox, outbox⟩ := step_answers hq hs
  · rw [responseFrame_eq] at outbox
    exact ⟨c, [], inbox, outbox, le, fun _ => rfl, fun hc => absurd hc nonzero⟩
  · rw [responseFrame_eq] at outbox
    exact ⟨okCode, p, inbox, outbox, by decide, fun hc => absurd rfl hc,
      fun _ => ⟨i, decoded, length.trans (by cases i <;> rfl)⟩⟩

end Sys2Proof.Machine

/-! # The key load's rules (40_init_keyload.md): what an INIT loads, when it faults, what it leaves unchanged -/

/-! ## An INIT that passes its checks (R110 to R113) -/

namespace Sys2Proof.Machine

/-- After an INIT the store holds the payload, then zeros (R110, R112). -/
theorem State.rkByte_keyLoaded (s : State) (st : Strength) (v : VSel) (p : Frame) {a : Nat} (h : a < rkCapacity) :
    (s.keyLoaded st v p).rkByte a = p.getD a 0 :=
  State.rkByte_of_read (s.read_loadKey p a h)

theorem State.keyedBy_keyLoaded (s : State) (st : Strength) (v : VSel) (p : Frame) :
    s.keyedBy st (resolveVariant s.accelPresent v) p (s.keyLoaded st v p) := by
  refine ⟨fun a ha => ?_, by rw [State.keyLoaded_eq]; rfl⟩
  rw [State.rkByte_keyLoaded s st v p ha]
  split_ifs with hinside
  · rfl
  · exact List.getD_eq_default _ _ (not_lt.1 hinside)

/-- The full effect of an INIT of any selector, in any lifecycle state (R113). -/
theorem exec_initInstr_keyedBy {s : State} {st : Strength} {v : VSel} {p : Frame} (serving : s.fault = false)
    (length : p.length = materialLength st) (present : v = .accelerated → s.accelPresent = true) :
    ∃ t, exec (initInstr st v p) s = .next t ∧ s.keyedBy st (resolveVariant s.accelPresent v) p t :=
  ⟨_, exec_initInstr_serving serving (length.trans (rkBytes_eq_materialLength st).symm) present,
    s.keyedBy_keyLoaded st v p⟩

/-- Settles O9: AUTO asks for no datapath. -/
theorem initAutoLoadsKey : Obligations.InitAutoLoadsKey := fun _ _ _ serving length =>
  exec_initInstr_keyedBy (v := .auto) serving length nofun

/-- Settles O10: PORTABLE asks for no datapath. -/
theorem initPortableLoadsKey : Obligations.InitPortableLoadsKey := fun _ _ _ serving length =>
  exec_initInstr_keyedBy (v := .portable) serving length nofun

/-- Settles O11: ACCELERATED asks for the datapath, which is present. -/
theorem initAccelLoadsKey : Obligations.InitAccelLoadsKey := fun _ _ _ serving present length =>
  exec_initInstr_keyedBy (v := .accelerated) serving length fun _ => present

/-- Settles O14: both stores hold the payload, then zeros. -/
theorem initLeavesNoOldKeyByte : Obligations.InitLeavesNoOldKeyByte := by
  intro s s' t t' v st p serving serving' present length ht ht'
  have hlength := length.trans (rkBytes_eq_materialLength st).symm
  rw [exec_initInstr_serving serving hlength fun hv => (present hv).1, Host.Outcome.next.injEq] at ht
  rw [exec_initInstr_serving serving' hlength fun hv => (present hv).2, Host.Outcome.next.injEq] at ht'
  subst ht ht'
  refine ⟨fun a ha => ?_, ?_⟩
  · rw [State.rkByte_keyLoaded s st v p ha, State.rkByte_keyLoaded s' st v p ha]
  · rintro rfl a htail ha
    rw [State.rkByte_keyLoaded s _ v p ha]
    exact List.getD_eq_default _ _ (length.trans_le htail)

end Sys2Proof.Machine

/-! ## An INIT that faults (R110, 60_exceptions.md R241, R242, R244) -/

namespace Sys2Proof.Machine

/-- The length is checked whatever the selector, before the variant (R244 steps 5, 6). -/
theorem exec_initInstr_badLength {s : State} {st : Strength} {p : Frame} (v : VSel) (serving : s.fault = false)
    (length : p.length ≠ materialLength st) : exec (initInstr st v p) s = .next (s.violated 3) := by
  have hmaterial : isKeyMaterial st p = false :=
    Bool.eq_false_iff.2 fun h => length (((isKeyMaterial_iff st p).1 h).trans (rkBytes_eq_materialLength st))
  rw [exec_initInstr, initCommand, State.serve_serving _ serving, if_pos hmaterial, State.raise_eq_violated]
  rfl

/-- Settles O12: each row is the INIT of its selector. -/
theorem initWrongLengthFaults : Obligations.InitWrongLengthFaults := fun _ _ _ serving length =>
  ⟨exec_initInstr_badLength .auto serving length, exec_initInstr_badLength .portable serving length,
    exec_initInstr_badLength .accelerated serving length⟩

/-- Settles O13: the length check passes and the variant check fails. -/
theorem initAccelWithoutDatapathFaults : Obligations.InitAccelWithoutDatapathFaults := by
  intro s st p serving absent length
  have hmaterial := (isKeyMaterial_iff st p).2 (length.trans (rkBytes_eq_materialLength st).symm)
  change exec (initInstr st .accelerated p) s = _
  rw [exec_initInstr, initCommand, State.serve_serving _ serving, hmaterial, if_neg Bool.noConfusion,
    if_pos ⟨rfl, absent⟩, State.raise_eq_violated]
  rfl

end Sys2Proof.Machine

/-! ## What an INIT leaves unchanged -/

namespace Sys2Proof.Machine

theorem State.keepsKeyAndMode_raise (s : State) (c : Cause) : s.keepsKeyAndMode (s.raise c) :=
  ⟨rfl, rfl, rfl, fun _ => rfl, rfl, rfl⟩

/-- Settles O15: a rejected INIT writes FAULT and CAUSE at most, an executed one the key and the mode. -/
theorem initFrame : Obligations.InitFrame := by
  intro s t v st p ht
  rw [exec_initInstr, Host.Outcome.next.injEq] at ht
  subst ht
  obtain ⟨-, e⟩ | ⟨-, -, e⟩ | ⟨-, -, -, -, e⟩ | ⟨-, -, -, e⟩ := initCommand_cases st v p s <;> rw [e]
  · exact ⟨rfl, rfl, rfl, rfl, rfl, .inl ⟨rfl, rfl⟩⟩
  · exact ⟨rfl, rfl, rfl, rfl, rfl, .inr (s.keepsKeyAndMode_raise _)⟩
  · exact ⟨rfl, rfl, rfl, rfl, rfl, .inr (s.keepsKeyAndMode_raise _)⟩
  · exact ⟨rfl, rfl, rfl, rfl, rfl, .inl ⟨rfl, rfl⟩⟩

end Sys2Proof.Machine

/-! # The portable datapath's rules (41_permute_portable.md): field arithmetic, the tables, the steps of a round, the
permutation, and PERMUTE on every path -/

/-! ## Arithmetic in GF(2^8) (R133) -/

namespace Sys2Proof.Machine

theorem byteXor_left_comm (a b c : Byte) : a ^^^ (b ^^^ c) = b ^^^ (a ^^^ c) := by
  rw [← BitVec.xor_assoc, BitVec.xor_comm a, BitVec.xor_assoc]

/-- The reduction by POLY as one term, so that `xtime` is a sum of two linear parts. -/
theorem xtime_eq_shift_xor (a : Byte) : xtime a = (a <<< 1) ^^^ (if a.msb then 0x1B else 0) := by
  rw [xtime, BitVec.msb_eq_decide]
  by_cases h : a.toNat < 128
  · simp [h, not_le.2 h]
  · simp [h, not_lt.1 h, constants]

theorem xtime_xor (a b : Byte) : xtime (a ^^^ b) = xtime a ^^^ xtime b := by
  simp only [xtime_eq_shift_xor, BitVec.shiftLeft_xor_distrib, BitVec.msb_xor]
  cases a.msb <;> cases b.msb <;> simp [BitVec.xor_assoc, BitVec.xor_comm, byteXor_left_comm]

theorem gmulBits_zero_right (bits : Nat) (a : Byte) : gmulBits bits a 0 = 0 := by cases bits <;> rfl

/-- The test for remaining bits only saves work: without it the sum is the same. -/
theorem gmulBits_succ (bits : Nat) (a : Byte) (b : Nat) :
    gmulBits (bits + 1) a b = (if b % 2 = 1 then a else 0) ^^^ gmulBits bits (xtime a) (b / 2) := by
  rw [gmulBits]
  by_cases hb : b = 0
  · simp [hb, gmulBits_zero_right]
  · rw [if_neg hb]

theorem gmulBits_xor_left (bits : Nat) (a b : Byte) (c : Nat) :
    gmulBits bits (a ^^^ b) c = gmulBits bits a c ^^^ gmulBits bits b c := by
  induction bits generalizing a b c with
  | zero => simp [gmulBits]
  | succ bits ih =>
    simp only [gmulBits_succ, xtime_xor, ih]
    split_ifs <;> simp [BitVec.xor_assoc, byteXor_left_comm]

theorem gmulBits_xor_right (bits : Nat) (a : Byte) (b c : Nat) :
    gmulBits bits a (b ^^^ c) = gmulBits bits a b ^^^ gmulBits bits a c := by
  induction bits generalizing a b c with
  | zero => simp [gmulBits]
  | succ bits ih =>
    simp only [gmulBits_succ, Nat.xor_div_two, Nat.xor_mod_two_eq_one, ih]
    by_cases hb : b % 2 = 1 <;> by_cases hc : c % 2 = 1 <;> simp [hb, hc, BitVec.xor_assoc, byteXor_left_comm]

theorem gmulBits_xtime (bits : Nat) (a : Byte) (b : Nat) :
    gmulBits bits (xtime a) b = xtime (gmulBits bits a b) := by
  induction bits generalizing a b with
  | zero => rfl
  | succ bits ih =>
    rw [gmulBits_succ, gmulBits_succ, xtime_xor, ih]
    split_ifs <;> rfl

theorem gmulBits_two_pow {bits i : Nat} (a : Byte) (h : i < bits) : gmulBits bits a (2 ^ i) = xtime^[i] a := by
  induction bits generalizing i a with
  | zero => omega
  | succ bits ih =>
    rw [gmulBits_succ]
    cases i with
    | zero => simp [gmulBits_zero_right]
    | succ i =>
      rw [pow_succ, Nat.mul_mod_left, Nat.mul_div_cancel _ two_pos, ih _ (Nat.lt_of_succ_lt_succ h)]
      simp

theorem gmul_xor_left (a b c : Byte) : gmul (a ^^^ b) c = gmul a c ^^^ gmul b c :=
  gmulBits_xor_left 8 a b c.toNat

theorem gmul_xor_right (a b c : Byte) : gmul a (b ^^^ c) = gmul a b ^^^ gmul a c := by
  rw [gmul, BitVec.toNat_xor, gmulBits_xor_right, gmul, gmul]

theorem gmul_xtime (a b : Byte) : gmul (xtime a) b = xtime (gmul a b) :=
  gmulBits_xtime 8 a b.toNat

theorem gmul_twoPow (a : Byte) {i : Nat} (h : i < 8) : gmul a (BitVec.twoPow 8 i) = xtime^[i] a := by
  rw [gmul, BitVec.toNat_twoPow_of_lt h, gmulBits_two_pow a h]

@[simp] theorem zero_gmul (b : Byte) : gmul 0#8 b = 0#8 := by
  simpa using gmul_xor_left 0#8 0#8 b

theorem gmul_one (a : Byte) : gmul a 1 = a := gmul_twoPow a (i := 0) (by decide)

theorem gmul_two (a : Byte) : gmul a 2 = xtime a := gmul_twoPow a (i := 1) (by decide)

theorem gmul_three (a : Byte) : gmul a 3 = xtime a ^^^ a :=
  calc gmul a 3 = gmul a 2 ^^^ gmul a 1 := gmul_xor_right a 2 1
    _ = xtime a ^^^ a := by rw [gmul_two, gmul_one]

/-- Settles O27: each law of `gmul` is the one of its sum over the bits, which `xtime` carries as it is linear. -/
theorem fieldArithmeticLaws : Obligations.FieldArithmeticLaws :=
  ⟨xtime_xor, gmul_xor_left, gmul_xor_right, fun a _ h => gmul_twoPow a h,
    fun a => ⟨gmul_one a, gmul_two a, gmul_three a⟩⟩

end Sys2Proof.Machine

/-! ## Multiplicative inverses and the S-box (R134, R135) -/

namespace Sys2Proof.Machine

/-- Multiplications by `b` and by `c` are sums of powers of one map, `xtime`, so they commute. -/
theorem gmulBits_gmul (bits : Nat) (a b : Byte) (c : Nat) :
    gmulBits bits (gmul a b) c = gmul (gmulBits bits a c) b := by
  induction bits generalizing a c with
  | zero => simp [gmulBits]
  | succ bits ih =>
    rw [gmulBits_succ, gmulBits_succ, gmul_xor_left, ← gmul_xtime, ih]
    split_ifs <;> simp

theorem gmul_right_comm (a b c : Byte) : gmul (gmul a b) c = gmul (gmul a c) b :=
  gmulBits_gmul 8 a b c.toNat

theorem one_gmul : ∀ b : Byte, gmul 1 b = b := by decide +kernel

/-- A byte has at most one multiplicative inverse. -/
theorem gmul_eq_one_unique {a b c : Byte} (hb : gmul a b = 1) (hc : gmul a c = 1) : b = c :=
  calc b = gmul (gmul a c) b := by rw [hc, one_gmul]
    _ = gmul (gmul a b) c := gmul_right_comm a c b
    _ = c := by rw [hb, one_gmul]

/-- The affine map of R134, applied to the inverse of the index. -/
def sboxAffine (b : Byte) : Byte :=
  b ^^^ b.rotateLeft 1 ^^^ b.rotateLeft 2 ^^^ b.rotateLeft 3 ^^^ b.rotateLeft 4 ^^^ 0x63

/-- The inverse of the affine map. -/
def sboxAffineInv (s : Byte) : Byte := s.rotateLeft 1 ^^^ s.rotateLeft 3 ^^^ s.rotateLeft 6 ^^^ 0x05

theorem sboxAffine_sboxAffineInv : ∀ s : Byte, sboxAffine (sboxAffineInv s) = s := by decide +kernel

/-- The table holds the multiplicative inverse of every index but 0, under the affine map. -/
theorem gmul_sboxAffineInv_sbox : ∀ a : Byte, a ≠ 0 → gmul a (sboxAffineInv (sbox a)) = 1 := by decide +kernel

theorem sbox_eq_sboxAffine {a b : Byte} (h : gmul a b = 1) : sbox a = sboxAffine b := by
  have ha : a ≠ 0 := by rintro rfl; simp at h
  rw [gmul_eq_one_unique h (gmul_sboxAffineInv_sbox a ha), sboxAffine_sboxAffineInv]

theorem invSbox_sbox : ∀ a : Byte, invSbox (sbox a) = a := by decide +kernel

theorem sbox_invSbox : ∀ a : Byte, sbox (invSbox a) = a := by decide +kernel

theorem sbox_ne_self : ∀ a : Byte, sbox a ≠ a := by decide +kernel

/-- Settles O28: an inverse is unique, so it is the one the table was made from. -/
theorem sboxMeetsItsFormula : Obligations.SboxMeetsItsFormula := by
  refine ⟨?_, fun a ha => ⟨_, gmul_sboxAffineInv_sbox a ha⟩, fun a => ⟨invSbox_sbox a, sbox_invSbox a, sbox_ne_self a⟩⟩
  rintro a b (⟨rfl, rfl⟩ | h)
  · decide
  · exact sbox_eq_sboxAffine h

end Sys2Proof.Machine

/-! ## SubBytes, ShiftRows and the key addition (R136, R137, R139) -/

namespace Sys2Proof.Machine

/-- Byte by byte through INV_SBOX. -/
def invSubBytes {n : Nat} (A : Bytes n) : Bytes n := Bytes.build n fun i => invSbox (A.get i)

theorem subBytes_bijective {n : Nat} : Function.Bijective fun A : Bytes n => subBytes A := by
  refine Function.bijective_iff_has_inverse.2 ⟨invSubBytes, fun A => ?_, fun A => ?_⟩ <;>
    refine Bytes.ext_get fun i hi => ?_
  · simp [invSubBytes, hi, invSbox_sbox]
  · simp [invSubBytes, hi, sbox_invSbox]

theorem addRoundKey_bijective (k : Nat → Block) (r : Nat) : Function.Bijective fun A => addRoundKey k A r :=
  Function.Involutive.bijective fun A => Bytes.ext_get fun i hi => by simp [addRoundKey, hi]

/-- Row `r` of column `c`, in the offsets of R137. -/
theorem shiftRows_get (A : Block) {c r : Nat} (hc : c < 8) (hr : r < 4) :
    (shiftRows A).get (4 * c + r) = A.get (4 * ((c + shift r) % 8) + r) := by
  have hcolumn : (4 * c + r) / 4 = c := by omega
  have hrow : (4 * c + r) % 4 = r := by omega
  rw [shiftRows, rotateRows_get _ _ _ _ (by omega), hcolumn, hrow]

/-- Rotations whose offsets add up to whole turns undo each other. -/
theorem rotateRows_rotateRows {cols : Nat} {off off' : Nat → Nat}
    (h : ∀ r, r < 4 → cols ∣ off r + off' r) (A : Bytes (4 * cols)) :
    rotateRows cols off (rotateRows cols off' A) = A := by
  refine Bytes.ext_get fun i hi => ?_
  have hr : i % 4 < 4 := Nat.mod_lt _ (by decide)
  have hmod : (i / 4 + off (i % 4)) % cols < cols := Nat.mod_lt _ (by omega)
  have hcolumn : (4 * ((i / 4 + off (i % 4)) % cols) + i % 4) / 4 = (i / 4 + off (i % 4)) % cols := by omega
  have hrow : (4 * ((i / 4 + off (i % 4)) % cols) + i % 4) % 4 = i % 4 := by omega
  have hback : ((i / 4 + off (i % 4)) % cols + off' (i % 4)) % cols = i / 4 := by
    rw [Nat.mod_add_mod, Nat.add_assoc, Nat.add_mod, Nat.mod_eq_zero_of_dvd (h _ hr), Nat.add_zero, Nat.mod_mod,
      Nat.mod_eq_of_lt (by omega)]
  rw [rotateRows_get _ _ _ _ hi, rotateRows_get _ _ _ _ (by omega), hcolumn, hrow, hback, Nat.div_add_mod]

/-- The offsets of the rotation back. -/
def shiftBack (r : Nat) : Nat := 8 - shift r

theorem shiftRows_bijective : Function.Bijective shiftRows :=
  Function.bijective_iff_has_inverse.2 ⟨rotateRows 8 shiftBack,
    rotateRows_rotateRows (cols := 8) (by decide), rotateRows_rotateRows (cols := 8) (by decide)⟩

theorem shiftRows_const (b : Byte) : shiftRows (Bytes.build 32 fun _ => b) = Bytes.build 32 fun _ => b := by
  refine Bytes.ext_get fun i hi => ?_
  rw [shiftRows, rotateRows_get _ _ _ _ hi, Bytes.get_build _ _ _ hi, Bytes.get_build _ _ _ (by omega)]

/-- Settles O29: the offsets are 0, 1, 3, 4, and 8 minus them rotate back. -/
theorem shiftRowsMovesRows : Obligations.ShiftRowsMovesRows := by
  refine ⟨fun A c hc => ⟨?_, ?_, ?_, ?_⟩, shiftRows_bijective, shiftRows_const, fun A => (subBytes_shiftRows A).symm⟩
  · simpa [shift, constants, Nat.mod_eq_of_lt hc] using shiftRows_get A hc (r := 0) (by decide)
  · exact shiftRows_get A hc (r := 1) (by decide)
  · exact shiftRows_get A hc (r := 2) (by decide)
  · exact shiftRows_get A hc (r := 3) (by decide)

end Sys2Proof.Machine

/-! ## MixColumns (R138) -/

namespace Sys2Proof.Machine

section
variable (a0 a1 a2 a3 : Byte)

theorem mixByte_row0 : mixByte a0 a1 a2 a3 0 = gmul a0 2 ^^^ gmul a1 3 ^^^ a2 ^^^ a3 := by
  change gmul a0 2 ^^^ gmul a1 3 ^^^ gmul a2 1 ^^^ gmul a3 1 = _
  rw [gmul_one, gmul_one]

theorem mixByte_row1 : mixByte a0 a1 a2 a3 1 = a0 ^^^ gmul a1 2 ^^^ gmul a2 3 ^^^ a3 := by
  change gmul a0 1 ^^^ gmul a1 2 ^^^ gmul a2 3 ^^^ gmul a3 1 = _
  rw [gmul_one, gmul_one]

theorem mixByte_row2 : mixByte a0 a1 a2 a3 2 = a0 ^^^ a1 ^^^ gmul a2 2 ^^^ gmul a3 3 := by
  change gmul a0 1 ^^^ gmul a1 1 ^^^ gmul a2 2 ^^^ gmul a3 3 = _
  rw [gmul_one, gmul_one]

theorem mixByte_row3 : mixByte a0 a1 a2 a3 3 = gmul a0 3 ^^^ a1 ^^^ a2 ^^^ gmul a3 2 := by
  change gmul a0 3 ^^^ gmul a1 1 ^^^ gmul a2 1 ^^^ gmul a3 2 = _
  rw [gmul_one, gmul_one]

theorem mixEntry_row_sum : ∀ r, r < 4 → mixEntry r 0 ^^^ mixEntry r 1 ^^^ mixEntry r 2 ^^^ mixEntry r 3 = 1 := by
  decide

/-- A column of four equal bytes is unchanged. -/
theorem mixByte_equal (b : Byte) {r : Nat} (hr : r < 4) : mixByte b b b b r = b := by
  rw [mixByte, ← gmul_xor_right, ← gmul_xor_right, ← gmul_xor_right, mixEntry_row_sum r hr, gmul_one]

theorem mixByte_xor (b0 b1 b2 b3 : Byte) (r : Nat) :
    mixByte (a0 ^^^ b0) (a1 ^^^ b1) (a2 ^^^ b2) (a3 ^^^ b3) r = mixByte a0 a1 a2 a3 r ^^^ mixByte b0 b1 b2 b3 r := by
  simp only [mixByte, gmul_xor_left, BitVec.xor_assoc, byteXor_left_comm]

/-- What mixing twice makes of a byte and the byte two rows from it: the square of the matrix of R138 has the entries
5 and 4 there and is zero elsewhere. -/
def mixTwice (a c : Byte) : Byte := xtime (xtime a) ^^^ a ^^^ xtime (xtime c)

theorem mixTwice_mixTwice (a c : Byte) : mixTwice (mixTwice a c) (mixTwice c a) = a := by
  simp [mixTwice, xtime_xor, BitVec.xor_assoc, BitVec.xor_comm, byteXor_left_comm]

theorem mixList_mixList_cons (A : Frame) :
    mixList (mixList (a0 :: a1 :: a2 :: a3 :: A)) =
      mixTwice a0 a2 :: mixTwice a1 a3 :: mixTwice a2 a0 :: mixTwice a3 a1 :: mixList (mixList A) := by
  simp only [mixList, mixByte_row0, mixByte_row1, mixByte_row2, mixByte_row3, gmul_two, gmul_three, xtime_xor,
    mixTwice, List.cons.injEq, and_true]
  refine ⟨?_, ?_, ?_, ?_⟩ <;> simp [BitVec.xor_assoc, BitVec.xor_comm, byteXor_left_comm]

end

/-- The fourth power of the matrix of R138 is the identity. -/
theorem mixList_four_times : ∀ A : Frame, mixList (mixList (mixList (mixList A))) = A
  | a0 :: a1 :: a2 :: a3 :: A => by
    rw [mixList_mixList_cons, mixList_mixList_cons, mixList_four_times A]
    simp only [mixTwice_mixTwice]
  | [] | [_] | [_, _] | [_, _, _] => rfl

theorem mixColumns_four_times {n : Nat} (A : Bytes n) :
    mixColumns (mixColumns (mixColumns (mixColumns A))) = A := by
  cases A with
  | mk A hA => simp only [mixColumns, mixList_four_times]

theorem mixColumns_bijective {n : Nat} : Function.Bijective fun A : Bytes n => mixColumns A :=
  Function.bijective_iff_has_inverse.2
    ⟨fun A => mixColumns (mixColumns (mixColumns A)), mixColumns_four_times, mixColumns_four_times⟩

section
variable {n : Nat} (A : Bytes n) {c : Nat}

/-- The four sums of column `c` (R138). -/
theorem mixColumns_sums (h : 4 * c + 4 ≤ n) :
    let a0 := A.get (4 * c); let a1 := A.get (4 * c + 1); let a2 := A.get (4 * c + 2); let a3 := A.get (4 * c + 3)
    (mixColumns A).get (4 * c) = gmul a0 2 ^^^ gmul a1 3 ^^^ a2 ^^^ a3 ∧
    (mixColumns A).get (4 * c + 1) = a0 ^^^ gmul a1 2 ^^^ gmul a2 3 ^^^ a3 ∧
    (mixColumns A).get (4 * c + 2) = a0 ^^^ a1 ^^^ gmul a2 2 ^^^ gmul a3 3 ∧
    (mixColumns A).get (4 * c + 3) = gmul a0 3 ^^^ a1 ^^^ a2 ^^^ gmul a3 2 :=
  ⟨(mixColumns_get A c 0 (by decide) h).trans (mixByte_row0 ..),
    (mixColumns_get A c 1 (by decide) h).trans (mixByte_row1 ..),
    (mixColumns_get A c 2 (by decide) h).trans (mixByte_row2 ..),
    (mixColumns_get A c 3 (by decide) h).trans (mixByte_row3 ..)⟩

theorem mixColumns_get_of_equal {b : Byte} (h : 4 * c + 4 ≤ n) (hequal : ∀ r, r < 4 → A.get (4 * c + r) = b)
    (r : Nat) (hr : r < 4) : (mixColumns A).get (4 * c + r) = b := by
  have hrow0 : A.get (4 * c) = b := hequal 0 (by decide)
  rw [mixColumns_get A c r hr h, hrow0, hequal 1 (by decide), hequal 2 (by decide), hequal 3 (by decide),
    mixByte_equal b hr]

end

/-- `MixColumns` is linear on whole columns. -/
theorem mixColumns_xor {n : Nat} (hn : 4 ∣ n) (A B : Bytes n) :
    mixColumns (A.xor B) = (mixColumns A).xor (mixColumns B) := by
  refine Bytes.ext_get fun i hi => ?_
  have hr : i % 4 < 4 := Nat.mod_lt _ (by decide)
  have hcolumn : 4 * (i / 4) + 4 ≤ n := by omega
  rw [Bytes.get_xor _ _ _ hi, ← Nat.div_add_mod i 4]
  simp only [mixColumns_get _ _ _ hr hcolumn, ← mixByte_xor]
  congr 1 <;> exact Bytes.get_xor _ _ _ (by omega)

/-- Settles O30: one column's sums, on a block and on a lane; mixing four times is the identity. -/
theorem mixColumnsMixesColumns : Obligations.MixColumnsMixesColumns :=
  ⟨fun A _ hc => mixColumns_sums A (by omega), fun A _ hc => mixColumns_sums A (by omega),
    mixColumns_xor (by decide), mixColumns_xor (by decide), mixColumns_bijective, mixColumns_bijective,
    fun A _ _ hc => mixColumns_get_of_equal A (by omega), fun A _ _ hc => mixColumns_get_of_equal A (by omega)⟩

end Sys2Proof.Machine

/-! ## The permutation (R131, R142, R145) -/

namespace Sys2Proof.Machine

/-- Settles O21: `PermPortable` is the rounds of Perm over the working registers. -/
theorem portableDatapathComputesPerm : Obligations.PortableDatapathComputesPerm := fun k n X hn => by
  rw [permPortable_eq_perm k X hn]
  exact ⟨rfl, rfl⟩

theorem permRounds_bijective (k : Nat → Block) (count r : Nat) : Function.Bijective (permRounds k count r) := by
  induction count generalizing r with
  | zero => exact Function.bijective_id
  | succ count ih =>
    exact (ih (r + 1)).comp ((addRoundKey_bijective k r).comp
      (mixColumns_bijective.comp (shiftRows_bijective.comp subBytes_bijective)))

theorem perm_bijective (k : Nat → Block) (n : Nat) : Function.Bijective (perm k n) :=
  (addRoundKey_bijective k n).comp (shiftRows_bijective.comp (subBytes_bijective.comp
    ((permRounds_bijective k (n - 1) 1).comp (addRoundKey_bijective k 0))))

/-- Settles O22: each step has an inverse, and Perm is composed of the steps. -/
theorem permutationIsBijective : Obligations.PermutationIsBijective :=
  ⟨subBytes_bijective, shiftRows_bijective, mixColumns_bijective, addRoundKey_bijective, perm_bijective⟩

end Sys2Proof.Machine

/-! ## PERMUTE on every path (R130) -/

namespace Sys2Proof.Machine

theorem exec_permute (p : Frame) (s : State) : exec (.permute p) s = .next (permuteCommand p s) :=
  exec_eq_commandOf (.permute p) s

/-- Settles O16: either datapath answers Perm under the round keys in the store, and only the working registers and
the responses are written. -/
theorem permuteAnswersPermutedBlock : Obligations.PermuteAnswersPermutedBlock := fun s X serving keyed => by
  rw [exec_permute_keyed X serving keyed, State.permuted_eq, State.datapath_w, rounds_eq_roundCount,
    State.respond, responseFrame_eq]
  rfl

/-- Settles O17: the lifecycle is checked before the payload (60_exceptions.md R244 steps 4, 5). -/
theorem permuteOutsideKeyedFaults : Obligations.PermuteOutsideKeyedFaults := fun s p serving notKeyed => by
  rw [exec_permute, permuteCommand, State.serve_serving _ serving, if_pos notKeyed, State.raise_eq_violated]
  rfl

/-- Settles O18: the lifecycle check passes, and the payload is no block. -/
theorem permuteWrongLengthFaults : Obligations.PermuteWrongLengthFaults := fun s p serving keyed length => by
  rw [exec_permute, permuteCommand, State.serve_serving _ serving, if_neg (not_not.2 keyed),
    (blockOperand_eq_none p).2 length]
  exact congrArg _ (State.raise_eq_violated s .badLength)

/-- Settles O19: a rejected PERMUTE writes FAULT and CAUSE at most, an executed one the working registers. -/
theorem permuteFrame : Obligations.PermuteFrame := by
  intro s t p ht
  rw [exec_permute, Host.Outcome.next.injEq] at ht
  subst ht
  obtain ⟨-, e⟩ | ⟨serving, notKeyed, e⟩ | ⟨serving, -, length, e⟩ | ⟨-, -, X, -, e⟩ := permuteCommand_cases p s <;>
    rw [e]
  · exact ⟨⟨rfl, rfl, rfl, fun _ => rfl, rfl, rfl⟩, rfl, .inl ⟨rfl, rfl⟩, .inl ⟨rfl, rfl⟩⟩
  · exact ⟨s.keepsKeyAndMode_raise _, rfl, .inl ⟨rfl, rfl⟩, .inr ⟨serving, .inl notKeyed, rfl, rfl⟩⟩
  · exact ⟨s.keepsKeyAndMode_raise _, rfl, .inl ⟨rfl, rfl⟩, .inr ⟨serving, .inr length, rfl, rfl⟩⟩
  · exact ⟨⟨rfl, rfl, rfl, fun _ => rfl, rfl, rfl⟩, rfl, .inr ⟨rfl, rfl⟩, .inl ⟨rfl, rfl⟩⟩

/-- The output block is a function of the strength, the material in use and the input block, through either
datapath. -/
theorem State.datapath_w_congr {s s' : State} (X : Block) (strength : s.strength = s'.strength)
    (material : ∀ a, a < rkBytes s.strength → s.rkByte a = s'.rkByte a) : (s.datapath X).w = (s'.datapath X).w := by
  rw [State.datapath_w, State.datapath_w, ← strength]
  refine perm_congr X fun r hr => State.roundKey_congr fun i hi => material _ ?_
  simp only [rkBytes, blockBytes]
  omega

/-- Settles O23: both answer the output block, which the material in use and the input block determine. -/
theorem answerDependsOnMaterialInUse : Obligations.AnswerDependsOnMaterialInUse := by
  intro s s' X serving serving' keyed keyed' strength material
  rw [← rkBytes_eq_materialLength] at material
  refine ⟨s.permuted X, s'.permuted X, responseFrame okCode (s.datapath X).w.list,
    exec_permute_keyed X serving keyed, exec_permute_keyed X serving' keyed', s.permuted_outbox X, ?_⟩
  rw [s'.permuted_outbox, State.datapath_w_congr X strength material]

end Sys2Proof.Machine

/-! ## The accelerated datapath (42_permute_accelerated.md R173, R174, R176) -/

namespace Sys2Proof.Machine

/-- The positions where BLEND_MASK is 1 (R173). -/
theorem blendMask_eq_listed : ∀ j, j < 16 →
    (constants.blendMask.getD j false = true ↔ j ∈ [1, 2, 3, 6, 7, 10, 11, 15]) := by decide

/-- Settles O31: the mask lists the positions, and the two blends choose opposite lanes at each. -/
theorem blendTakesTheListedPositions : Obligations.BlendTakesTheListedPositions := by
  refine ⟨fun A B j hj => ?_, fun A B j hj => ?_⟩
  · simp only [blend_get A B hj, blendMask_eq_listed j hj]
  · rw [blend_get A B hj, blend_get B A hj]
    split
    · exact .inr ⟨rfl, rfl⟩
    · exact .inl ⟨rfl, rfl⟩

/-- SHUF_IDX by columns: rows 0 and 1 stay, rows 2 and 3 come from the next lane column (R174). -/
theorem shufIdx_column : ∀ c, c < 4 →
    constants.shufIdx.getD (4 * c) 0 = 4 * c ∧ constants.shufIdx.getD (4 * c + 1) 0 = 4 * c + 1 ∧
    constants.shufIdx.getD (4 * c + 2) 0 = 4 * ((c + 1) % 4) + 2 ∧
    constants.shufIdx.getD (4 * c + 3) 0 = 4 * ((c + 1) % 4) + 3 := by decide

/-- Settles O32: each row of a shuffled column is read through SHUF_IDX. -/
theorem shuffleRotatesLowerRows : Obligations.ShuffleRotatesLowerRows := by
  intro A c hc
  obtain ⟨row0, row1, row2, row3⟩ := shufIdx_column c hc
  rw [shuffle_get A (by omega), shuffle_get A (by omega), shuffle_get A (by omega), shuffle_get A (by omega),
    row0, row1, row2, row3]
  exact ⟨rfl, rfl, rfl, rfl⟩

/-- Settles O33: both sides move the same byte of the wide block to each place. -/
theorem lanesShiftTheWideBlock : Obligations.LanesShiftTheWideBlock := joinLanes_shiftRows4_shuffle_blend

/-- Settles O20: each lane round is the wide round, so the two datapaths leave the same working registers. -/
theorem variantsComputeOnePermutation : Obligations.VariantsComputeOnePermutation := fun k n X _ =>
  congrArg Datapath.w (permAccel_eq_permPortable k n X)

end Sys2Proof.Machine

/-! # The rules of DISPOSE and PROBE (43_dispose_probe.md): their effects, their violations, what they leave unchanged,
the lifecycle table -/

/-! ## DISPOSE (R190) -/

namespace Sys2Proof.Machine

theorem exec_dispose (p : Frame) (s : State) : exec (.dispose p) s = .next (disposeCommand p s) :=
  exec_eq_commandOf (.dispose p) s

/-- Every byte of the store, below its capacity, reads zero after a DISPOSE. -/
theorem State.rkByte_wiped (s : State) {a : Nat} (h : a < rkCapacity) : s.wiped.rkByte a = 0 :=
  State.rkByte_of_read (s := s.wiped) (s.read_wipeKey a h)

/-- A DISPOSE that passes its checks wipes. -/
theorem exec_dispose_serving {s : State} (serving : s.fault = false) (notDisposed : s.lifecycle ≠ .disposed) :
    exec (.dispose []) s = .next s.wiped := by
  rw [exec_dispose, disposeCommand, State.serve_serving _ serving, if_neg notDisposed, List.length_nil,
    if_neg (not_not.2 rfl)]

/-- Settles O34: the wipe writes zeros over the whole store, the mode and the working registers. -/
theorem disposeWipesKey : Obligations.DisposeWipesKey := fun s serving notDisposed =>
  ⟨s.wiped, exec_dispose_serving serving notDisposed, fun _ ha => s.rkByte_wiped ha, by rw [State.wiped_eq]; rfl⟩

/-- Settles O35: the lifecycle is checked before the payload (60_exceptions.md R244 steps 4, 5). -/
theorem disposeViolations : Obligations.DisposeViolations := by
  intro s p serving
  rw [exec_dispose, disposeCommand, State.serve_serving _ serving, State.raise_eq_violated, State.raise_eq_violated]
  refine ⟨fun disposed => ?_, fun notDisposed nonempty => ?_⟩
  · rw [if_pos disposed]
    rfl
  · rw [if_neg notDisposed, if_pos (mt List.length_eq_zero_iff.1 nonempty)]
    rfl

/-- Settles O36: a rejected DISPOSE writes FAULT and CAUSE at most, an executed one the key, the mode and the working
registers. -/
theorem disposeFrame : Obligations.DisposeFrame := by
  intro s t p ht
  rw [exec_dispose, Host.Outcome.next.injEq] at ht
  subst ht
  obtain ⟨-, e⟩ | ⟨-, -, e⟩ | ⟨-, -, -, e⟩ | ⟨-, -, -, e⟩ := disposeCommand_cases p s <;> rw [e]
  · exact ⟨rfl, rfl, rfl, .inl ⟨rfl, rfl⟩⟩
  · exact ⟨rfl, rfl, rfl, .inr ⟨s.keepsKeyAndMode_raise _, rfl, rfl⟩⟩
  · exact ⟨rfl, rfl, rfl, .inr ⟨s.keepsKeyAndMode_raise _, rfl, rfl⟩⟩
  · exact ⟨rfl, rfl, rfl, .inl ⟨rfl, rfl⟩⟩

end Sys2Proof.Machine

/-! ## PROBE (R191) -/

namespace Sys2Proof.Machine

theorem exec_probe (p : Frame) (s : State) : exec (.probe p) s = .next (probeCommand p s) :=
  exec_eq_commandOf (.probe p) s

theorem State.keepsKeyAndMode_respond (s : State) (c : Byte) (p : Frame) : s.keepsKeyAndMode (s.respond c p) :=
  ⟨rfl, rfl, rfl, fun _ => rfl, rfl, rfl⟩

/-- Settles O38: with a payload the length check is the one check left. -/
theorem probeWithPayloadFaults : Obligations.ProbeWithPayloadFaults := fun s p serving nonempty => by
  rw [exec_probe, probeCommand, if_neg (mt List.length_eq_zero_iff.1 nonempty), State.serve_serving _ serving,
    State.raise_eq_violated]
  rfl

/-- Settles O39: the two answers of PROBE write the response only, and the violation needs a payload and an engine that
is not faulted. -/
theorem probeFrame : Obligations.ProbeFrame := by
  intro s t p ht
  rw [exec_probe, Host.Outcome.next.injEq] at ht
  subst ht
  obtain ⟨-, e⟩ | ⟨-, -, e⟩ | ⟨nonempty, serving, e⟩ := probeCommand_cases p s <;> rw [e]
  · exact ⟨s.keepsKeyAndMode_respond _ _, rfl, rfl, rfl, fun _ => ⟨rfl, rfl⟩⟩
  · exact ⟨s.keepsKeyAndMode_respond _ _, rfl, rfl, rfl, fun _ => ⟨rfl, rfl⟩⟩
  · refine ⟨s.keepsKeyAndMode_raise _, rfl, rfl, rfl, ?_⟩
    rintro (empty | faulted)
    · exact absurd empty nonempty
    · exact absurd (serving.symm.trans faulted) Bool.noConfusion

end Sys2Proof.Machine

/-! ## The response code of a command on an engine that is not faulted (60_exceptions.md R244) -/

namespace Sys2Proof.Machine

/-- Once step 2 has passed, steps 4 to 7 decide; an empty PROBE passes them too. -/
theorem dispatchCode_serving {s : State} (serving : s.fault = false) (i : Instr) :
    dispatchCode s (.instr i) =
      if lifecycleCheckFails s.lifecycle i then 2
      else if i.payload.length ≠ demandedLength i then 3
      else if variantCheckFails s.accelPresent i then 4
      else 0 := by
  by_cases hprobe : Decoded.instr i = .instr (.probe [])
  · obtain rfl : i = .probe [] := Decoded.instr.inj hprobe
    rw [dispatchCode, if_pos rfl]
    rfl
  · rw [dispatchCode, if_neg hprobe, serving, if_neg Bool.noConfusion]

theorem dispatchCode_initInstr {s : State} (serving : s.fault = false) (st : Strength) (v : VSel) (p : Frame) :
    dispatchCode s (.instr (initInstr st v p)) =
      if p.length ≠ rkBytes st then 3 else if v = .accelerated ∧ s.accelPresent = false then 4 else 0 := by
  rw [dispatchCode_serving serving, payload_initInstr, rkBytes_eq_materialLength]
  cases v <;> simp [initInstr, lifecycleCheckFails, demandedLength, variantCheckFails]

theorem dispatchCode_permute {s : State} (serving : s.fault = false) (p : Frame) :
    dispatchCode s (.instr (.permute p)) = if s.lifecycle ≠ .keyed then 2 else if p.length ≠ 32 then 3 else 0 := by
  simp [dispatchCode_serving serving, lifecycleCheckFails, demandedLength, variantCheckFails, Instr.payload]

theorem dispatchCode_dispose {s : State} (serving : s.fault = false) (p : Frame) :
    dispatchCode s (.instr (.dispose p)) = if s.lifecycle = .disposed then 2 else if p ≠ [] then 3 else 0 := by
  simp [dispatchCode_serving serving, lifecycleCheckFails, demandedLength, variantCheckFails, Instr.payload]

theorem dispatchCode_probe {s : State} (serving : s.fault = false) (p : Frame) :
    dispatchCode s (.instr (.probe p)) = if p ≠ [] then 3 else 0 := by
  simp [dispatchCode_serving serving, lifecycleCheckFails, demandedLength, variantCheckFails, Instr.payload]

end Sys2Proof.Machine

/-! ## The lifecycle table (R192) -/

namespace Sys2Proof.Machine

/-- Where a command that is executed leads from the lifecycle state `l` (R192). -/
def lifecycleAfter (l : Lifecycle) : Instr → Lifecycle
  | .initAuto _ _ => .keyed
  | .initPortable _ _ => .keyed
  | .initAccel _ _ => .keyed
  | .permute _ => l
  | .dispose _ => .disposed
  | .probe _ => l

theorem lifecycleAfter_initInstr (l : Lifecycle) (st : Strength) (v : VSel) (p : Frame) :
    lifecycleAfter l (initInstr st v p) = .keyed := by cases v <;> rfl

/-- `t` is what the dispatch of R244 makes of the command `i` on an engine `s` that is not faulted: the fault entry
with the cause of the first check that fails, or, when none fails, no fault and the lifecycle state of the table. -/
inductive State.Dispatches (s : State) (i : Instr) : State → Prop
  | violated (c : Cause) (code : dispatchCode s (.instr i) = c.code) : s.Dispatches i (s.raise c)
  | executed {t : State} (code : dispatchCode s (.instr i) = 0) (serving : t.fault = false)
      (lifecycle : t.lifecycle = lifecycleAfter s.lifecycle i) : s.Dispatches i t

section
variable {s : State} (serving : s.fault = false)
include serving

theorem dispatches_initCommand (st : Strength) (v : VSel) (p : Frame) :
    s.Dispatches (initInstr st v p) (initCommand st v p s) := by
  have code := dispatchCode_initInstr serving st v p
  obtain ⟨faulted, -⟩ | ⟨-, length, e⟩ | ⟨-, length, accelerated, absent, e⟩ | ⟨-, length, present, e⟩ :=
    initCommand_cases st v p s
  · simp [serving] at faulted
  · exact e ▸ .violated .badLength (code.trans (by simp [length, Cause.code]))
  · exact e ▸ .violated .variantUnavailable (code.trans (by simp [length, accelerated, absent, Cause.code]))
  · have passes : ¬ (v = .accelerated ∧ s.accelPresent = false) := fun ⟨hv, absent⟩ => by simp [present hv] at absent
    exact e ▸ .executed (code.trans (by simp [length, passes])) serving (lifecycleAfter_initInstr _ st v p).symm

theorem dispatches_permuteCommand (p : Frame) : s.Dispatches (.permute p) (permuteCommand p s) := by
  have code := dispatchCode_permute serving p
  obtain ⟨faulted, -⟩ | ⟨-, notKeyed, e⟩ | ⟨-, keyed, length, e⟩ | ⟨-, keyed, X, rfl, e⟩ := permuteCommand_cases p s
  · simp [serving] at faulted
  · exact e ▸ .violated .badLifecycle (code.trans (by simp [notKeyed, Cause.code]))
  · exact e ▸ .violated .badLength (code.trans (by simp [keyed, length, Cause.code]))
  · exact e ▸ .executed (code.trans (by simp [keyed, X.len])) serving rfl

theorem dispatches_disposeCommand (p : Frame) : s.Dispatches (.dispose p) (disposeCommand p s) := by
  have code := dispatchCode_dispose serving p
  obtain ⟨faulted, -⟩ | ⟨-, disposed, e⟩ | ⟨-, notDisposed, nonempty, e⟩ | ⟨-, notDisposed, empty, e⟩ :=
    disposeCommand_cases p s
  · simp [serving] at faulted
  · exact e ▸ .violated .badLifecycle (code.trans (by simp [disposed, Cause.code]))
  · exact e ▸ .violated .badLength (code.trans (by simp [notDisposed, nonempty, Cause.code]))
  · exact e ▸ .executed (code.trans (by simp [notDisposed, empty])) serving rfl

theorem dispatches_probeCommand (p : Frame) : s.Dispatches (.probe p) (probeCommand p s) := by
  have code := dispatchCode_probe serving p
  obtain ⟨empty, e⟩ | ⟨-, faulted, -⟩ | ⟨nonempty, -, e⟩ := probeCommand_cases p s
  · exact e ▸ .executed (code.trans (by simp [empty])) serving rfl
  · simp [serving] at faulted
  · exact e ▸ .violated .badLength (code.trans (by simp [nonempty, Cause.code]))

theorem dispatches_commandOf (i : Instr) : s.Dispatches i (commandOf i s) := by
  cases i with
  | initAuto st p => exact dispatches_initCommand serving st .auto p
  | initPortable st p => exact dispatches_initCommand serving st .portable p
  | initAccel st p => exact dispatches_initCommand serving st .accelerated p
  | permute p => exact dispatches_permuteCommand serving p
  | dispose p => exact dispatches_disposeCommand serving p
  | probe p => exact dispatches_probeCommand serving p

end

section
variable {s t : State} {i : Instr} (h : s.Dispatches i t)
include h

theorem State.Dispatches.fault_iff : t.fault = true ↔ dispatchCode s (.instr i) ≠ 0 := by
  obtain ⟨c, code⟩ | ⟨code, serving, -⟩ := h
  · exact iff_of_true rfl (code ▸ c.code_ne_zero)
  · exact iff_of_false (by simp [serving]) (not_not.2 code)

/-- CAUSE is the code of the first check that fails. -/
theorem State.Dispatches.cause (hfault : t.fault = true) : t.cause = dispatchCode s (.instr i) := by
  obtain ⟨c, code⟩ | ⟨-, serving, -⟩ := h
  · exact code.symm
  · simp [serving] at hfault

theorem State.Dispatches.lifecycle_of_fault (hfault : t.fault = true) : t.lifecycle = s.lifecycle := by
  obtain ⟨c, -⟩ | ⟨-, serving, -⟩ := h
  · rfl
  · simp [serving] at hfault

theorem State.Dispatches.lifecycle_of_serving (hserving : t.fault = false) :
    t.lifecycle = lifecycleAfter s.lifecycle i := by
  obtain ⟨c, -⟩ | ⟨-, -, lifecycle⟩ := h
  · simp at hserving
  · exact lifecycle

theorem State.Dispatches.badLifecycle (code : dispatchCode s (.instr i) = 2) : t.fault = true ∧ t.cause = 2 := by
  have hfault : t.fault = true := h.fault_iff.2 (by simp [code])
  exact ⟨hfault, (h.cause hfault).trans code⟩

end

/-- Settles O44: a command either fails a check and enters the fault, which keeps LIFECYCLE, or follows the table; the
lifecycle check is the first one after FAULT. -/
theorem lifecycleFollowsTheTable : Obligations.LifecycleFollowsTheTable := by
  intro i s t serving ht
  rw [exec_eq_commandOf, Host.Outcome.next.injEq] at ht
  subst ht
  have h := dispatches_commandOf serving i
  refine ⟨h.fault_iff, h.lifecycle_of_fault, fun hserving => (h.lifecycle_of_serving hserving).trans ?_, ?_, ?_⟩
  · cases i <;> rfl
  · rintro ⟨p, rfl⟩ notKeyed
    exact h.badLifecycle ((dispatchCode_permute serving p).trans (if_pos notKeyed))
  · rintro ⟨p, rfl⟩ disposed
    exact h.badLifecycle ((dispatchCode_dispose serving p).trans (if_pos disposed))

end Sys2Proof.Machine

/-! # The host's rules (49_host_usage.md): the nonce increment carries, counter mode restores its input -/

/-! ## Little-endian numbers (00_scope.md R6) -/

namespace Sys2Proof.Machine

theorem list_build_div_eq_bytesOfNat (n v : Nat) :
    (Bytes.build n fun i => BitVec.ofNat 8 (v / 256 ^ i)).list = bytesOfNat n v := by
  induction n generalizing v with
  | zero => rfl
  | succ n ih =>
    rw [bytesOfNat, ← ih]
    simp [Bytes.build, List.range_succ_eq_map, Nat.div_div_eq_div_mul, Nat.pow_succ']

theorem list_le256 (v : Nat) : (le256 v).list = bytesOfNat 32 v := list_build_div_eq_bytesOfNat 32 v

theorem bytesOfNat_length (n v : Nat) : (bytesOfNat n v).length = n := by
  induction n generalizing v with
  | zero => rfl
  | succ n ih => rw [bytesOfNat, List.length_cons, ih]

/-- The low `n` bytes of a number are the number modulo `256 ^ n`. -/
theorem natOfBytes_bytesOfNat (n v : Nat) : natOfBytes (bytesOfNat n v) = v % 256 ^ n := by
  induction n generalizing v with
  | zero => simp [bytesOfNat, natOfBytes, Nat.mod_one]
  | succ n ih =>
    rw [bytesOfNat, natOfBytes, ih, BitVec.toNat_ofNat, Nat.pow_succ' (m := 256)]
    exact Nat.mod_mul.symm

/-- A byte string is read back from its value. -/
theorem bytesOfNat_natOfBytes (B : Frame) : bytesOfNat B.length (natOfBytes B) = B := by
  induction B with
  | nil => rfl
  | cons b B ih =>
    have hlow : BitVec.ofNat 8 (natOfBytes (b :: B)) = b := BitVec.eq_of_toNat_eq (by simp [natOfBytes]; omega)
    have hhigh : natOfBytes (b :: B) / 256 = natOfBytes B := by simp only [natOfBytes]; omega
    rw [List.length_cons, bytesOfNat, hlow, hhigh, ih]

theorem natOfBytes_mod_length (B : Frame) : natOfBytes B % 256 ^ B.length = natOfBytes B := by
  rw [← natOfBytes_bytesOfNat, bytesOfNat_natOfBytes]

theorem bytesOfNat_mod (n v : Nat) : bytesOfNat n (v % 256 ^ n) = bytesOfNat n v := by
  have h := bytesOfNat_natOfBytes (bytesOfNat n v)
  rwa [bytesOfNat_length, natOfBytes_bytesOfNat] at h

end Sys2Proof.Machine

/-! ## The nonce increment (R214) -/

namespace Sys2Proof.Machine

/-- The carry goes on exactly when the byte was 255. -/
theorem bytesOfNat_natOfBytes_add_one (B : Frame) : bytesOfNat B.length (natOfBytes B + 1) = incBytes B := by
  induction B with
  | nil => rfl
  | cons b B ih =>
    have hlow : BitVec.ofNat 8 (natOfBytes (b :: B) + 1) = b + 1 :=
      BitVec.eq_of_toNat_eq (by simp [natOfBytes, BitVec.toNat_add]; omega)
    rw [List.length_cons, bytesOfNat, hlow, incBytes]
    split
    case isTrue hcarry =>
      have hhigh : (natOfBytes (b :: B) + 1) / 256 = natOfBytes B + 1 := by simp only [natOfBytes]; bv_omega
      rw [hcarry, hhigh, ih]
    case isFalse hstop =>
      have hhigh : (natOfBytes (b :: B) + 1) / 256 = natOfBytes B := by simp only [natOfBytes]; bv_omega
      rw [hhigh, bytesOfNat_natOfBytes]

theorem list_inc (N : Block) : (inc N).list = bytesOfNat 32 (natOfBytes N.list + 1) := by
  rw [inc, list_le256]
  exact bytesOfNat_mod 32 _

theorem natOfBytes_inc (N : Block) : natOfBytes (inc N).list = (natOfBytes N.list + 1) % 2 ^ 256 := by
  rw [list_inc]
  exact natOfBytes_bytesOfNat 32 _

theorem list_inc_eq_incBytes (N : Block) : (inc N).list = incBytes N.list := by
  rw [list_inc, ← bytesOfNat_natOfBytes_add_one, N.len]

theorem natOfBytes_iterate_inc (N : Block) (count : Nat) :
    natOfBytes (inc^[count] N).list = (natOfBytes N.list + count) % 2 ^ 256 := by
  induction count with
  | zero =>
    have h := natOfBytes_mod_length N.list
    rw [N.len] at h
    exact h.symm
  | succ count ih => rw [Function.iterate_succ_apply', natOfBytes_inc, ih, Nat.mod_add_mod, Nat.add_assoc]

/-- Settles O53: the bytes of the number after `LE256(N)` are those of the carry loop. -/
theorem nonceIncrementCarries : Obligations.NonceIncrementCarries :=
  ⟨fun N => ⟨natOfBytes_inc N, list_inc_eq_incBytes N⟩, natOfBytes_iterate_inc⟩

end Sys2Proof.Machine

/-! ## Counter mode (R213, R226, R227) -/

namespace Sys2Proof.Machine

theorem step_permute_keyed {s : State} (N : Block) (serving : s.fault = false) (keyed : s.lifecycle = .keyed) :
    step (s.setInbox (.frame (encode (.permute N.list)) :: s.inbox)) = .next (s.permuted N) :=
  (step_instr_frame rfl (decode_encode _)).trans
    ((exec_eq_commandOf _ s).symm.trans (exec_permute_keyed N serving keyed))

/-- A Keyed engine that is not faulted answers the output block as keystream. -/
theorem askPermute_keyed {s : State} (N : Block) (serving : s.fault = false) (keyed : s.lifecycle = .keyed) :
    askPermute s N = some (s.permuted N, (s.datapath N).w) := by
  simp [askPermute, step_permute_keyed N serving keyed, responseFrame_eq, blockOperand_list]

theorem ctrBlocks_succ {s t u : State} {N N' KS : Block} {count : Nat} {input out : Frame}
    (first : askPermute s N = some (t, KS)) (rest : ctrBlocks count t (inc N) (input.drop 32) = some (u, N', out)) :
    ctrBlocks (count + 1) s N input = some (u, N', List.zipWith (· ^^^ ·) (input.take 32) KS.list ++ out) := by
  simp [ctrBlocks, first, rest]

/-- The exclusive-or with the keystream undoes itself, on a partial block too. -/
theorem zipWith_xor_zipWith_xor {A K : Frame} (h : A.length ≤ K.length) :
    List.zipWith (· ^^^ ·) (List.zipWith (· ^^^ ·) A K) K = A :=
  List.ext_getElem (by simp [h]) fun i _ _ => by simp

/-- The output of one block and of the rest is cut where the input was. -/
theorem take_drop_append_of_cut {input A out : Frame} (first : A.length = (input.take 32).length)
    (rest : out.length = (input.drop 32).length) : (A ++ out).take 32 = A ∧ (A ++ out).drop 32 = out := by
  rw [List.length_take] at first
  rw [List.length_drop] at rest
  by_cases hfull : 32 ≤ input.length
  · have hA : A.length = 32 := by omega
    exact ⟨List.take_left' hA, List.drop_left' hA⟩
  · obtain rfl : out = [] := List.eq_nil_of_length_eq_zero (by omega)
    rw [List.append_nil]
    exact ⟨List.take_of_length_le (by omega), List.drop_of_length_le (by omega)⟩

theorem length_zipWith_take_block (input : Frame) (KS : Block) :
    (List.zipWith (· ^^^ ·) (input.take 32) KS.list).length = (input.take 32).length := by
  simp [KS.len]

/-- A block more of output turns back into a block more of input, when the same keystream is used. -/
theorem ctrBlocks_succ_back {s t u : State} {N N' KS : Block} {count : Nat} {input out : Frame}
    (first : askPermute s N = some (t, KS)) (length : out.length = (input.drop 32).length)
    (rest : ctrBlocks count t (inc N) out = some (u, N', input.drop 32)) :
    ctrBlocks (count + 1) s N (List.zipWith (· ^^^ ·) (input.take 32) KS.list ++ out) = some (u, N', input) := by
  obtain ⟨htake, hdrop⟩ := take_drop_append_of_cut (length_zipWith_take_block input KS) length
  have hcut : (input.take 32).length ≤ KS.list.length := by simp [KS.len]
  rw [ctrBlocks_succ first (hdrop.symm ▸ rest), htake, zipWith_xor_zipWith_xor hcut, List.take_append_drop]

/-- Two engines that serve a PERMUTE and answer every block alike. -/
structure State.SameKeystream (s s' : State) : Prop where
  serving : s.fault = false
  serving' : s'.fault = false
  keyed : s.lifecycle = .keyed
  keyed' : s'.lifecycle = .keyed
  answers : ∀ N, (s.datapath N).w = (s'.datapath N).w

/-- A PERMUTE on each side keeps what the keystream depends on. -/
theorem State.SameKeystream.permuted {s s' : State} (h : s.SameKeystream s') (N : Block) :
    (s.permuted N).SameKeystream (s'.permuted N) := { h with }

/-- As many blocks as cover the input restore it on the second side. -/
theorem State.SameKeystream.ctrBlocks_restores {s s' : State} (h : s.SameKeystream s') {count : Nat} (N : Block)
    {input : Frame} (covered : input.length ≤ 32 * count) :
    ∃ t t' out, ctrBlocks count s N input = some (t, inc^[count] N, out) ∧ out.length = input.length ∧
      ctrBlocks count s' N out = some (t', inc^[count] N, input) := by
  induction count generalizing s s' N input with
  | zero =>
    obtain rfl : input = [] := List.eq_nil_of_length_eq_zero (by omega)
    exact ⟨s, s', [], rfl, rfl, rfl⟩
  | succ count ih =>
    obtain ⟨t, t', out, forth, length, back⟩ :=
      ih (h.permuted N) (inc N) (input := input.drop 32) (by rw [List.length_drop]; omega)
    have first := askPermute_keyed N h.serving h.keyed
    have first' := askPermute_keyed N h.serving' h.keyed'
    rw [← h.answers N] at first'
    refine ⟨t, t', _, ctrBlocks_succ first forth, ?_, ctrBlocks_succ_back first' length back⟩
    rw [List.length_append, length_zipWith_take_block, length, ← List.length_append, List.take_append_drop]

/-- Settles O54: the material in use determines the keystream, and the nonces of the two sides are the same. -/
theorem counterModeRoundTrips : Obligations.CounterModeRoundTrips := by
  intro s s' N input serving serving' keyed keyed' strength material
  rw [← rkBytes_eq_materialLength] at material
  have h : s.SameKeystream s' :=
    ⟨serving, serving', keyed, keyed', fun X => State.datapath_w_congr X strength material⟩
  obtain ⟨t, t', out, forth, length, back⟩ :=
    h.ctrBlocks_restores N (show input.length ≤ 32 * ((input.length + 31) / 32) by omega)
  exact ⟨t, t', out, forth, length, by rwa [ctrTransform, length]⟩

end Sys2Proof.Machine

/-! # The exceptions' rules (60_exceptions.md): a step for every input, the fault entry and its exit, the order of the
checks -/

/-! ## The step as a function of what the frame decodes to -/

namespace Sys2Proof.Machine

/-- What a step makes of the frame that decodes to `d`, once the frame is taken from the port (R244). -/
def handleFrame : Decoded → State → State
  | .instr i => commandOf i
  | .illegal why => illegalFrame why

theorem step_frame {s : State} {F : Frame} {rest : List PortEvent} (hq : s.inbox = .frame F :: rest) :
    step s = .next (handleFrame (decode F) (s.setInbox rest)) := by
  cases hd : decode F with
  | instr i => exact step_instr_frame hq hd
  | illegal why => exact step_illegal_frame hq hd

/-- Settles O6: the first arm of the step. -/
theorem idleEngineHoldsState : Obligations.IdleEngineHoldsState := fun s hq => by rw [step, hq]

/-- Settles O8: the port is empty, or its first input is the reset input or a frame; none of the three stops. -/
theorem everyStepAnswers : Obligations.EveryStepAnswers := fun s =>
  match hq : s.inbox with
  | [] => ⟨s, idleEngineHoldsState s hq⟩
  | .reset :: _ => ⟨_, step_reset_input hq⟩
  | .frame _ :: _ => ⟨_, step_frame hq⟩

end Sys2Proof.Machine

/-! ## The fault entry (R242) -/

namespace Sys2Proof.Machine

theorem Cause.one_le_code_toNat (c : Cause) : 1 ≤ c.code.toNat := by cases c <;> decide

/-- Only the fault entry writes FAULT. -/
theorem State.Handles.fault_eq_or_eq_violated {s t : State} {d : Decoded} (h : s.Handles d t) :
    t.fault = s.fault ∨ ∃ c : Cause, t = s.violated c.code := by
  cases h with
  | violated _ c => exact .inr ⟨c, s.raise_eq_violated c⟩
  | answered | keyLoaded | permuted | wiped => exact .inl rfl

/-- Settles O41: of the idle step, the reset input and the effects of a frame, only the fault entry sets FAULT. -/
theorem faultEntryIsPrecise : Obligations.FaultEntryIsPrecise := by
  intro s t hs serving faulted
  obtain rfl | ⟨rest, -, rfl⟩ | ⟨F, rest, hq, ht⟩ := step_handles hs
  · simp [serving] at faulted
  · simp at faulted
  · obtain kept | ⟨c, rfl⟩ := ht.fault_eq_or_eq_violated
    · simp [kept, serving] at faulted
    · exact ⟨F, rest, c.code, hq, c.one_le_code_toNat, c.code_toNat_le, rfl⟩

end Sys2Proof.Machine

/-! ## The faulted engine (R243) -/

namespace Sys2Proof.Machine

/-- Step 2 of the dispatch comes before everything but the PROBE without payload (R244). -/
theorem handleFrame_faulted {s : State} {d : Decoded} (faulted : s.fault = true) (hd : d ≠ .instr (.probe [])) :
    handleFrame d s = s.respond engineFaultedCode [] := by
  match d with
  | .illegal _ => rw [handleFrame, illegalFrame, State.serve_faulted _ faulted]
  | .instr (.initAuto ..) | .instr (.initPortable ..) | .instr (.initAccel ..) =>
    rw [handleFrame, commandOf, initCommand, State.serve_faulted _ faulted]
  | .instr (.permute _) => rw [handleFrame, commandOf, permuteCommand, State.serve_faulted _ faulted]
  | .instr (.dispose _) => rw [handleFrame, commandOf, disposeCommand, State.serve_faulted _ faulted]
  | .instr (.probe p) =>
    have nonempty : p.length ≠ 0 := fun h => hd (by rw [List.length_eq_zero_iff.1 h])
    rw [handleFrame, commandOf, probeCommand, if_neg nonempty, State.serve_faulted _ faulted]

/-- FAULT is sticky (R243). -/
theorem State.Handles.faulted {s t : State} {d : Decoded} (h : s.Handles d t) (faulted : s.fault = true) :
    t.fault = true := by
  obtain kept | ⟨c, rfl⟩ := h.fault_eq_or_eq_violated
  · exact kept.trans faulted
  · rfl

/-- Settles O40: PROBE without a payload reports in every state, step 2 of the dispatch answers every other frame, and
of all steps only the reset input clears FAULT. -/
theorem faultedEngineAnswersCode5 : Obligations.FaultedEngineAnswersCode5 := by
  refine fun s faulted => ⟨fun F rest hq => ⟨fun hd => ?_, fun hd => ?_⟩, fun t hs serving => ?_⟩
  · exact (stepRunsDecodedCommand s F rest _ hq hd).trans (probeReportsStatusWord (s.setInbox rest))
  · rw [step_frame hq, handleFrame_faulted (s := s.setInbox rest) faulted hd]
    rfl
  · obtain rfl | ⟨rest, hq, -⟩ | ⟨F, rest, -, ht⟩ := step_handles hs
    · simp [faulted] at serving
    · exact ⟨rest, hq⟩
    · simp [ht.faulted faulted] at serving

end Sys2Proof.Machine

/-! ## The order of the checks (R244) -/

namespace Sys2Proof.Machine

/-- `t` is faulted, or the one response it has more than `s` is OK. -/
def State.FaultedOrOk (s t : State) : Prop :=
  t.fault = true ∨ ∃ p, t.outbox = s.outbox ++ [responseFrame okCode p]

theorem faultedOrOk_initCommand (st : Strength) (v : VSel) (p : Frame) (s : State) :
    s.FaultedOrOk (initCommand st v p s) := by
  obtain ⟨faulted, e⟩ | ⟨-, -, e⟩ | ⟨-, -, -, -, e⟩ | ⟨-, -, -, e⟩ := initCommand_cases st v p s <;> rw [e]
  · exact .inl faulted
  · exact .inl rfl
  · exact .inl rfl
  · exact .inr ⟨[], rfl⟩

theorem faultedOrOk_permuteCommand (p : Frame) (s : State) : s.FaultedOrOk (permuteCommand p s) := by
  obtain ⟨faulted, e⟩ | ⟨-, -, e⟩ | ⟨-, -, -, e⟩ | ⟨-, -, X, -, e⟩ := permuteCommand_cases p s <;> rw [e]
  · exact .inl faulted
  · exact .inl rfl
  · exact .inl rfl
  · exact .inr ⟨_, s.permuted_outbox X⟩

theorem faultedOrOk_disposeCommand (p : Frame) (s : State) : s.FaultedOrOk (disposeCommand p s) := by
  obtain ⟨faulted, e⟩ | ⟨-, -, e⟩ | ⟨-, -, -, e⟩ | ⟨-, -, -, e⟩ := disposeCommand_cases p s <;> rw [e]
  · exact .inl faulted
  · exact .inl rfl
  · exact .inl rfl
  · exact .inr ⟨[], rfl⟩

theorem faultedOrOk_probeCommand (p : Frame) (s : State) : s.FaultedOrOk (probeCommand p s) := by
  obtain ⟨-, e⟩ | ⟨-, faulted, e⟩ | ⟨-, -, e⟩ := probeCommand_cases p s <;> rw [e]
  · exact .inr ⟨le32 s.statusWord, rfl⟩
  · exact .inl faulted
  · exact .inl rfl

theorem faultedOrOk_commandOf (i : Instr) (s : State) : s.FaultedOrOk (commandOf i s) := by
  cases i with
  | initAuto st p => exact faultedOrOk_initCommand st .auto p s
  | initPortable st p => exact faultedOrOk_initCommand st .portable p s
  | initAccel st p => exact faultedOrOk_initCommand st .accelerated p s
  | permute p => exact faultedOrOk_permuteCommand p s
  | dispose p => exact faultedOrOk_disposeCommand p s
  | probe p => exact faultedOrOk_probeCommand p s

/-- `t` has one response more than `s`, with the code of the first line of R244 that applies to a frame that decodes
to `d`; a code other than 0 has no payload. -/
def State.AnswersDispatchCode (s : State) (d : Decoded) (t : State) : Prop :=
  ∃ payload, t.outbox = s.outbox ++ [responseFrame (dispatchCode s d) payload] ∧ (dispatchCode s d ≠ 0 → payload = [])

theorem State.answersDispatchCode_ok {s t : State} {d : Decoded} (code : dispatchCode s d = 0)
    (ok : ∃ p, t.outbox = s.outbox ++ [responseFrame okCode p]) : s.AnswersDispatchCode d t := by
  obtain ⟨p, outbox⟩ := ok
  exact ⟨p, code ▸ outbox, fun nonzero => absurd code nonzero⟩

theorem State.answersDispatchCode_rejected {s t : State} {d : Decoded}
    (outbox : t.outbox = s.outbox ++ [responseFrame (dispatchCode s d) []]) : s.AnswersDispatchCode d t :=
  ⟨[], outbox, fun _ => rfl⟩

theorem dispatchCode_faulted {s : State} {d : Decoded} (faulted : s.fault = true) (hd : d ≠ .instr (.probe [])) :
    dispatchCode s d = engineFaultedCode :=
  (if_neg hd).trans (if_pos faulted)

theorem dispatchCode_illegal {s : State} (serving : s.fault = false) (why : IllegalReason) :
    dispatchCode s (.illegal why) = Cause.illegalCommand.code := by
  rw [dispatchCode, if_neg nofun, serving]
  rfl

/-- A command on an engine that is not faulted: the fault entry answers the cause, which is the code of the first check
that fails; when no check fails the command ends without a fault, so it was answered OK. -/
theorem answersDispatchCode_commandOf {s : State} (serving : s.fault = false) (i : Instr) :
    s.AnswersDispatchCode (.instr i) (commandOf i s) := by
  have dispatches := dispatches_commandOf serving i
  have faultedOrOk := faultedOrOk_commandOf i s
  generalize commandOf i s = t at dispatches faultedOrOk ⊢
  cases dispatches with
  | violated c code => exact State.answersDispatchCode_rejected (code ▸ s.raise_outbox c)
  | executed code noFault => exact State.answersDispatchCode_ok code (faultedOrOk.resolve_left (by simp [noFault]))

/-- The steps of the dispatch in their order: PROBE without payload, FAULT, Illegal, the command's own checks. -/
theorem answersDispatchCode_handleFrame (s : State) (d : Decoded) : s.AnswersDispatchCode d (handleFrame d s) := by
  by_cases hd : d = .instr (.probe [])
  · exact State.answersDispatchCode_ok (if_pos hd) ⟨le32 s.statusWord, by rw [hd]; rfl⟩
  cases hf : s.fault with
  | true =>
    exact State.answersDispatchCode_rejected (by rw [handleFrame_faulted hf hd, dispatchCode_faulted hf hd]; rfl)
  | false =>
    cases d with
    | illegal why =>
      exact State.answersDispatchCode_rejected (by
        rw [dispatchCode_illegal hf, handleFrame, illegalFrame, State.serve_serving _ hf]
        rfl)
    | instr i => exact answersDispatchCode_commandOf hf i

/-- Settles O42: the code depends on nothing of the port. -/
theorem firstCheckThatFailsIsReported : Obligations.FirstCheckThatFailsIsReported := fun s F rest hq =>
  have ⟨payload, answered⟩ := answersDispatchCode_handleFrame (s.setInbox rest) (decode F)
  ⟨_, payload, step_frame hq, answered⟩

end Sys2Proof.Machine

/-! # The rules of reset and of a run (70_reset_and_hazards.md): every input taken and every frame answered, the erasure
by reset and DISPOSE -/

/-! ## The inputs one by one (R278) -/

namespace Sys2Proof.Machine

theorem frameCount_cons (e : PortEvent) (rest : List PortEvent) :
    frameCount (e :: rest) = frameCount [e] + frameCount rest := by
  cases e with
  | frame F => exact Nat.add_comm _ 1
  | reset => exact (Nat.zero_add _).symm

/-- A step takes exactly the first input, and has one response more when that input is a frame (R80). -/
theorem step_takes_input {s : State} {e : PortEvent} {rest : List PortEvent} (hq : s.inbox = e :: rest) :
    ∃ t, step s = .next t ∧ t.inbox = rest ∧ t.outbox.length = s.outbox.length + frameCount [e] := by
  cases e with
  | reset => exact ⟨_, step_reset_input hq, rfl, rfl⟩
  | frame F =>
    obtain ⟨c, p, inbox, outbox, -⟩ := responseFormatIsLegal s _ F rest hq (step_frame hq)
    exact ⟨_, step_frame hq, inbox, by rw [outbox, List.length_append]; rfl⟩

theorem run_succ_of_next {M : Host.Core} {s t : M.State} (k : Nat) (hs : M.step s = .next t) :
    M.run (k + 1) s = M.run k t := by simp only [Host.Core.run, hs]

/-- A run as long as its inputs ends with none left and one new response per frame among them. -/
theorem run_takes_inputs (inputs : List PortEvent) : ∀ s : State, s.inbox = inputs →
    ∃ t, Sys2Proof.core.run inputs.length s = .next t ∧ t.runOver ∧
      t.outbox.length = s.outbox.length + frameCount inputs := by
  induction inputs with
  | nil => exact fun s hq => ⟨s, rfl, hq, rfl⟩
  | cons e rest ih =>
    intro s hq
    obtain ⟨u, hu, inbox, first⟩ := step_takes_input hq
    obtain ⟨t, hrun, runOver, others⟩ := ih u inbox
    refine ⟨t, (run_succ_of_next (M := Sys2Proof.core) rest.length hu).trans hrun, runOver, ?_⟩
    rw [others, first, frameCount_cons e rest, Nat.add_assoc]

/-- Settles O48, by induction on the inputs waiting. -/
theorem runAnswersEveryFrame : Obligations.RunAnswersEveryFrame := fun s => run_takes_inputs s.inbox s rfl

end Sys2Proof.Machine

/-! ## Reset, then DISPOSE (R276) -/

namespace Sys2Proof.Machine

/-- An engine that is neither faulted nor Disposed wipes at a frame that decodes to DISPOSE without payload (R190). -/
theorem step_dispose_serving {s : State} {F : Frame} {rest : List PortEvent} (hq : s.inbox = .frame F :: rest)
    (hd : decode F = .instr (.dispose [])) (serving : s.fault = false) (notDisposed : s.lifecycle ≠ .disposed) :
    step s = .next (s.setInbox rest).wiped :=
  (stepRunsDecodedCommand s F rest _ hq hd).trans (exec_dispose_serving serving notDisposed)

/-- Settles O52: reset leaves a Created engine that is not faulted, so the DISPOSE behind it passes its checks. -/
theorem resetThenDisposeErases : Obligations.ResetThenDisposeErases := fun _ _ hq =>
  ⟨_, _, step_reset_input hq, step_dispose_serving rfl (decode_encode (.dispose [])) (State.applyReset_fault _) nofun,
    rfl, rfl, fun _ ha => State.rkByte_wiped _ ha⟩

end Sys2Proof.Machine
